-- ==== Sys2Proof/Word.lean ====
section
/-! DEFINITION. The widths of the CHIP-8 core's values (spec/00_scope.md R10, R20, R21): every value the
manual calls bits is an unsigned bit vector, bit 0 the least significant. -/

namespace Sys2Proof

/-- One 8-bit byte: a general register, a timer, a byte of memory, an 8-bit immediate (R10, R200, R311). -/
abbrev Byte := BitVec 8

/-- One 16-bit word: an instruction word, `pc`, `I`, a stack entry (R10, R110, R115, R120, R300). -/
abbrev Word := BitVec 16

/-- A 4-bit register index 0x0..0xF (R10, R100, R310). -/
abbrev Reg := BitVec 4

/-- A 4-bit field that is no register index: the family, a sub-opcode, DRAW's row count (R301). -/
abbrev Nibble := BitVec 4

/-- A 12-bit address operand `nnn` (R301, R311). -/
abbrev Addr := BitVec 12

end Sys2Proof
end

