-- ==== Sys2Proof/Config.lean ====
section
/-! DEFINITION. What the source leaves open: the parameters of spec/00_scope.md R11 as one record of plain
data, and the host's answers to `Now()`, `RandByte()` and `KeyAnswer()` (R25, R860 to R863) as free values. -/

namespace Sys2Proof

/-- The open parameters of R11. The record stands in `State` and no step writes it, so a statement about
every state holds for every value of every parameter. DESIGN CHOICE, safe (notes/assumptions/1.md). -/
structure Config where
  /-- `STACK_CAPACITY`, the number of call-stack entries (R11, D2). -/
  stackCapacity : Nat
  /-- `FONT_BASE`, the address of glyph 0 (R11, D3). -/
  fontBase : Nat
  /-- `FONT_DATA`, the 80 glyph bytes, glyph by glyph, top row first (R11, R231, D3). -/
  fontData : List Byte
  /-- `FRAME_BASE`, the address of framebuffer byte 0 (R11, D4). -/
  frameBase : Nat
  /-- `RESERVED_BASE`, the lowest address of the reserved high region (R11, D5). -/
  reservedBase : Nat
deriving DecidableEq, Repr

/-- FREE VALUE: what `Now()` answers at the n-th unscripted draw, a natural number of milliseconds about
which nothing is assumed (R846, R860, D16; notes/assumptions/3.md). -/
opaque Config.freeNow : Nat → Nat

/-- FREE VALUE: what `RandByte()` answers at the n-th unscripted draw (R861, D15; notes/assumptions/3.md). -/
opaque Config.freeRand : Nat → Byte

/-- FREE VALUE: what `KeyAnswer()` answers a key skip at the n-th unscripted draw, any 8-bit value (R862,
D14; notes/assumptions/3.md). -/
opaque Config.freeKey : Nat → Byte

/-- FREE VALUE: the key 0x0..0xF with which the host ends the wait of a GKEY at the n-th unscripted draw
(R863, D14: "a draw in 0..15"; notes/assumptions/5.md). -/
opaque Config.freeAwaitedKey : Nat → Nibble

end Sys2Proof
end

