-- ==== Sys2Proof/Syntax.lean ====
section
/-! DEFINITION. The 34 instructions of the base CHIP-8 set, one constructor for each row of
spec/opcode_table.json (spec/30_encoding.md R320, R321; R2). -/

namespace Sys2Proof

/-- An instruction with its operands (R310, R311): `x` and `y` are register indices, `kk` an 8-bit
immediate, `nnn` a 12-bit address, `n` DRAW's row count. The operand types admit exactly the values the
fields can hold. -/
inductive Instr where
  /-- CLS, 0x00E0 (R710). -/
  | cls
  /-- RET, 0x00EE (R412). -/
  | ret
  /-- JMP, 0x1nnn (R410). -/
  | jmp (nnn : Addr)
  /-- CALL, 0x2nnn (R411). -/
  | call (nnn : Addr)
  /-- SKIPEQ, 0x3xkk (R450). -/
  | skipeq (x : Reg) (kk : Byte)
  /-- SKIPNEQ, 0x4xkk (R451). -/
  | skipneq (x : Reg) (kk : Byte)
  /-- SKIPREQ, 0x5xy0 (R452). -/
  | skipreq (x y : Reg)
  /-- MOV, 0x6xkk (R500). -/
  | mov (x : Reg) (kk : Byte)
  /-- ADD, 0x7xkk (R501). -/
  | add (x : Reg) (kk : Byte)
  /-- MOVR, 0x8xy0 (R510). -/
  | movr (x y : Reg)
  /-- OR, 0x8xy1 (R511). -/
  | or (x y : Reg)
  /-- AND, 0x8xy2 (R512). -/
  | and (x y : Reg)
  /-- XOR, 0x8xy3 (R513). -/
  | xor (x y : Reg)
  /-- ADDR, 0x8xy4 (R514). -/
  | addr (x y : Reg)
  /-- SUBR, 0x8xy5 (R515). -/
  | subr (x y : Reg)
  /-- SR, 0x8xy6 (R516). -/
  | sr (x y : Reg)
  /-- RSUB, 0x8xy7 (R517). -/
  | rsub (x y : Reg)
  /-- SL, 0x8xyE (R518). -/
  | sl (x y : Reg)
  /-- SKIPRNEQ, 0x9xy0 (R453). -/
  | skiprneq (x y : Reg)
  /-- SI, 0xAnnn (R600). -/
  | si (nnn : Addr)
  /-- PCN, 0xBnnn (R413). -/
  | pcn (nnn : Addr)
  /-- RAND, 0xCxkk (R520). -/
  | rand (x : Reg) (kk : Byte)
  /-- DRAW, 0xDxyn (R720). -/
  | draw (x y : Reg) (n : Nibble)
  /-- SKIPKEQ, 0xEx9E (R454). -/
  | skipkeq (x : Reg)
  /-- SKIPKNEQ, 0xExA1 (R455). -/
  | skipkneq (x : Reg)
  /-- GDELAY, 0xFx07 (R650). -/
  | gdelay (x : Reg)
  /-- GKEY, 0xFx0A (R663). -/
  | gkey (x : Reg)
  /-- SDELAY, 0xFx15 (R655). -/
  | sdelay (x : Reg)
  /-- SSND, 0xFx18 (R658). -/
  | ssnd (x : Reg)
  /-- ADDI, 0xFx1E (R605). -/
  | addi (x : Reg)
  /-- SPRITE, 0xFx29 (R610). -/
  | sprite (x : Reg)
  /-- BCD, 0xFx33 (R620). -/
  | bcd (x : Reg)
  /-- RDUMP, 0xFx55 (R630). -/
  | rdump (x : Reg)
  /-- RLOAD, 0xFx65 (R640). -/
  | rload (x : Reg)
deriving DecidableEq, Repr

end Sys2Proof
end

