-- ==== Sys2Proof/WellFormed.lean ====
section
/-! DEFINITION. What a well-formed instruction and a well-formed choice of the open parameters are:
operand values inside their fields (spec/30_encoding.md R301, R310, R311) and the constraints of
spec/00_scope.md R11. -/

namespace Sys2Proof

/-- An operand as the text or the table gives it: a number and the width in bits of its field (R301). -/
structure Operand where
  value : Nat
  width : Nat
deriving DecidableEq, Repr

/-- The number fits the field (R340: "with a < 2^12, k < 2^8 and x, y, n, s < 2^4"). -/
def Operand.fits (o : Operand) : Bool := decide (o.value < 2 ^ o.width)

/-- The operands of an instruction, in the order of its syntax, with the widths of R301. -/
def Instr.operands : Instr → List Operand
  | .cls => []
  | .ret => []
  | .jmp nnn => [⟨nnn.toNat, 12⟩]
  | .call nnn => [⟨nnn.toNat, 12⟩]
  | .skipeq x kk => [⟨x.toNat, 4⟩, ⟨kk.toNat, 8⟩]
  | .skipneq x kk => [⟨x.toNat, 4⟩, ⟨kk.toNat, 8⟩]
  | .skipreq x y => [⟨x.toNat, 4⟩, ⟨y.toNat, 4⟩]
  | .mov x kk => [⟨x.toNat, 4⟩, ⟨kk.toNat, 8⟩]
  | .add x kk => [⟨x.toNat, 4⟩, ⟨kk.toNat, 8⟩]
  | .movr x y => [⟨x.toNat, 4⟩, ⟨y.toNat, 4⟩]
  | .or x y => [⟨x.toNat, 4⟩, ⟨y.toNat, 4⟩]
  | .and x y => [⟨x.toNat, 4⟩, ⟨y.toNat, 4⟩]
  | .xor x y => [⟨x.toNat, 4⟩, ⟨y.toNat, 4⟩]
  | .addr x y => [⟨x.toNat, 4⟩, ⟨y.toNat, 4⟩]
  | .subr x y => [⟨x.toNat, 4⟩, ⟨y.toNat, 4⟩]
  | .sr x y => [⟨x.toNat, 4⟩, ⟨y.toNat, 4⟩]
  | .rsub x y => [⟨x.toNat, 4⟩, ⟨y.toNat, 4⟩]
  | .sl x y => [⟨x.toNat, 4⟩, ⟨y.toNat, 4⟩]
  | .skiprneq x y => [⟨x.toNat, 4⟩, ⟨y.toNat, 4⟩]
  | .si nnn => [⟨nnn.toNat, 12⟩]
  | .pcn nnn => [⟨nnn.toNat, 12⟩]
  | .rand x kk => [⟨x.toNat, 4⟩, ⟨kk.toNat, 8⟩]
  | .draw x y n => [⟨x.toNat, 4⟩, ⟨y.toNat, 4⟩, ⟨n.toNat, 4⟩]
  | .skipkeq x => [⟨x.toNat, 4⟩]
  | .skipkneq x => [⟨x.toNat, 4⟩]
  | .gdelay x => [⟨x.toNat, 4⟩]
  | .gkey x => [⟨x.toNat, 4⟩]
  | .sdelay x => [⟨x.toNat, 4⟩]
  | .ssnd x => [⟨x.toNat, 4⟩]
  | .addi x => [⟨x.toNat, 4⟩]
  | .sprite x => [⟨x.toNat, 4⟩]
  | .bcd x => [⟨x.toNat, 4⟩]
  | .rdump x => [⟨x.toNat, 4⟩]
  | .rload x => [⟨x.toNat, 4⟩]

/-- Every operand fits its field. The operand types make this true of every `Instr` ("by construction of
the mask", R12, R310), which Sys2Proof/Laws/Encoding.lean proves; the check refuses raw operands. -/
def Instr.wellFormed (i : Instr) : Bool := i.operands.all Operand.fits

/-- The source's register-index construction check: a value above 0xF gives no register, the failure the
spec calls InvalidRegister (R12, R808). No decoded field can fail it (R310). -/
def makeRegister (value : Nat) : Option Reg :=
  if value ≤ 0xF then some (BitVec.ofNat 4 value) else none

/-- The constraints of R11 on the open parameters. -/
abbrev Config.WellFormed (c : Config) : Prop :=
  (12 ≤ c.stackCapacity ∧ c.stackCapacity ≤ 16) ∧
  c.fontBase + 80 ≤ 0x200 ∧
  c.fontData.length = 80 ∧
  0x200 < c.reservedBase ∧
  c.reservedBase ≤ c.frameBase ∧
  c.frameBase + 256 ≤ 0x1000

end Sys2Proof
end

