-- ==== Sys2Proof/Decode.lean ====
section
/-! DEFINITION. Instruction encoding (spec/30_encoding.md): the decoder, total on any word and on any
bytes, rejecting by name; then the encoder, written from the same tables; then the opcode table of R321. -/

namespace Sys2Proof

/-! ## Fields of a word (R301) -/

/-- The family, "highest nibble": bits 15..12. -/
def fieldO (w : Word) : Nibble := w.extractLsb' 12 4

/-- The first register index: bits 11..8. -/
def fieldX (w : Word) : Reg := w.extractLsb' 8 4

/-- The second register index: bits 7..4. -/
def fieldY (w : Word) : Reg := w.extractLsb' 4 4

/-- The sub-opcode or DRAW's row count, "lowest nibble": bits 3..0. -/
def fieldN (w : Word) : Nibble := w.extractLsb' 0 4

/-- The 8-bit immediate or sub-opcode, "lowest byte": bits 7..0. -/
def fieldKk (w : Word) : Byte := w.extractLsb' 0 8

/-- The 12-bit address: bits 11..0. -/
def fieldNnn (w : Word) : Addr := w.extractLsb' 0 12

/-- A word from its two bytes as memory holds them: the byte at the lower address is bits 15..8 (R210). -/
def wordOfBytes (hi lo : Byte) : Word := hi ++ lo

/-- The byte of a word that memory holds at the lower address (R210). -/
def highByte (w : Word) : Byte := w.extractLsb' 8 8

/-- The byte of a word that memory holds at the higher address (R210). -/
def lowByte (w : Word) : Byte := w.extractLsb' 0 8

/-! ## Decode (R320, R330) -/

/-- Family 0x8: the secondary match on the lowest nibble (R320). -/
def decodeAlu (x y : Reg) (n : Nibble) : Option Instr :=
  match n with
  | 0x0#4 => some (.movr x y)
  | 0x1#4 => some (.or x y)
  | 0x2#4 => some (.and x y)
  | 0x3#4 => some (.xor x y)
  | 0x4#4 => some (.addr x y)
  | 0x5#4 => some (.subr x y)
  | 0x6#4 => some (.sr x y)
  | 0x7#4 => some (.rsub x y)
  | 0xE#4 => some (.sl x y)
  | _ => none

/-- Family 0xE: the secondary match on the lowest byte (R320). -/
def decodeKeySkip (x : Reg) (kk : Byte) : Option Instr :=
  match kk with
  | 0x9E#8 => some (.skipkeq x)
  | 0xA1#8 => some (.skipkneq x)
  | _ => none

/-- Family 0xF: the secondary match on the lowest byte (R320). -/
def decodeMisc (x : Reg) (kk : Byte) : Option Instr :=
  match kk with
  | 0x07#8 => some (.gdelay x)
  | 0x0A#8 => some (.gkey x)
  | 0x15#8 => some (.sdelay x)
  | 0x18#8 => some (.ssnd x)
  | 0x1E#8 => some (.addi x)
  | 0x29#8 => some (.sprite x)
  | 0x33#8 => some (.bcd x)
  | 0x55#8 => some (.rdump x)
  | 0x65#8 => some (.rload x)
  | _ => none

/-- `decode(w)`, total and pure; `none` is the spec's "undefined" (R320, R322, R330, R331). -/
def decode (w : Word) : Option Instr :=
  match fieldO w with
  | 0x0#4 => if w = 0x00E0#16 then some .cls else if w = 0x00EE#16 then some .ret else none
  | 0x1#4 => some (.jmp (fieldNnn w))
  | 0x2#4 => some (.call (fieldNnn w))
  | 0x3#4 => some (.skipeq (fieldX w) (fieldKk w))
  | 0x4#4 => some (.skipneq (fieldX w) (fieldKk w))
  | 0x5#4 => if fieldN w = 0 then some (.skipreq (fieldX w) (fieldY w)) else none
  | 0x6#4 => some (.mov (fieldX w) (fieldKk w))
  | 0x7#4 => some (.add (fieldX w) (fieldKk w))
  | 0x8#4 => decodeAlu (fieldX w) (fieldY w) (fieldN w)
  | 0x9#4 => if fieldN w = 0 then some (.skiprneq (fieldX w) (fieldY w)) else none
  | 0xA#4 => some (.si (fieldNnn w))
  | 0xB#4 => some (.pcn (fieldNnn w))
  | 0xC#4 => some (.rand (fieldX w) (fieldKk w))
  | 0xD#4 => some (.draw (fieldX w) (fieldY w) (fieldN w))
  | 0xE#4 => decodeKeySkip (fieldX w) (fieldKk w)
  | 0xF#4 => decodeMisc (fieldX w) (fieldKk w)
  | _ => none

/-- Why bytes do not decode. -/
inductive DecodeError where
  /-- The word is one of the undefined words of R330. -/
  | undefinedWord (w : Word)
  /-- Fewer than the two bytes every instruction has (R300). -/
  | truncated
deriving DecidableEq, Repr

/-- Decode the instruction at the head of a byte sequence, and answer the bytes that follow it; every
instruction is two bytes, the first the high byte (R300, R210). -/
def decodeBytes : List Byte → Except DecodeError (Instr × List Byte)
  | hi :: lo :: rest =>
    match decode (wordOfBytes hi lo) with
    | some i => .ok (i, rest)
    | none => .error (.undefinedWord (wordOfBytes hi lo))
  | _ => .error .truncated

/-- The word whose bits are `w`, numbered as the opcode table numbers them; bits from `nbits` up are 0. -/
def tableWord (nbits w : Nat) : Word := BitVec.ofNat 16 (w % 2 ^ nbits)

/-- What the decoder reads from the opcode-table word `w`, laid out as memory stores it (R210). -/
def decodeTableWord (nbits w : Nat) : Option Instr :=
  match decodeBytes [highByte (tableWord nbits w), lowByte (tableWord nbits w)] with
  | .ok (i, _) => some i
  | .error _ => none

/-! ## Encode (R302, R340) -/

/-- Format ADDR: o nnn. -/
def wordAddr (o : Nibble) (nnn : Addr) : Word := o ++ nnn

/-- Formats XKK and XS: o x kk, where XS has a fixed sub-opcode in place of the immediate. -/
def wordXkk (o : Nibble) (x : Reg) (kk : Byte) : Word := (o ++ x) ++ kk

/-- Formats XYN, XYN0 and XYS: o x y n, where the last two have a fixed lowest nibble. -/
def wordXyn (o : Nibble) (x y : Reg) (n : Nibble) : Word := ((o ++ x) ++ y) ++ n

/-- `encode(op)`: the word of an instruction, every bit outside the operand fields as R340 packs it. -/
def encode : Instr → Word
  | .cls => 0x00E0#16
  | .ret => 0x00EE#16
  | .jmp nnn => wordAddr 0x1 nnn
  | .call nnn => wordAddr 0x2 nnn
  | .skipeq x kk => wordXkk 0x3 x kk
  | .skipneq x kk => wordXkk 0x4 x kk
  | .skipreq x y => wordXyn 0x5 x y 0x0
  | .mov x kk => wordXkk 0x6 x kk
  | .add x kk => wordXkk 0x7 x kk
  | .movr x y => wordXyn 0x8 x y 0x0
  | .or x y => wordXyn 0x8 x y 0x1
  | .and x y => wordXyn 0x8 x y 0x2
  | .xor x y => wordXyn 0x8 x y 0x3
  | .addr x y => wordXyn 0x8 x y 0x4
  | .subr x y => wordXyn 0x8 x y 0x5
  | .sr x y => wordXyn 0x8 x y 0x6
  | .rsub x y => wordXyn 0x8 x y 0x7
  | .sl x y => wordXyn 0x8 x y 0xE
  | .skiprneq x y => wordXyn 0x9 x y 0x0
  | .si nnn => wordAddr 0xA nnn
  | .pcn nnn => wordAddr 0xB nnn
  | .rand x kk => wordXkk 0xC x kk
  | .draw x y n => wordXyn 0xD x y n
  | .skipkeq x => wordXkk 0xE x 0x9E
  | .skipkneq x => wordXkk 0xE x 0xA1
  | .gdelay x => wordXkk 0xF x 0x07
  | .gkey x => wordXkk 0xF x 0x0A
  | .sdelay x => wordXkk 0xF x 0x15
  | .ssnd x => wordXkk 0xF x 0x18
  | .addi x => wordXkk 0xF x 0x1E
  | .sprite x => wordXkk 0xF x 0x29
  | .bcd x => wordXkk 0xF x 0x33
  | .rdump x => wordXkk 0xF x 0x55
  | .rload x => wordXkk 0xF x 0x65

/-! ## The opcode table (R321) -/

/-- The mnemonic of an instruction, as R321 spells it. -/
def Instr.mnemonic : Instr → String
  | .cls => "CLS"
  | .ret => "RET"
  | .jmp _ => "JMP"
  | .call _ => "CALL"
  | .skipeq _ _ => "SKIPEQ"
  | .skipneq _ _ => "SKIPNEQ"
  | .skipreq _ _ => "SKIPREQ"
  | .mov _ _ => "MOV"
  | .add _ _ => "ADD"
  | .movr _ _ => "MOVR"
  | .or _ _ => "OR"
  | .and _ _ => "AND"
  | .xor _ _ => "XOR"
  | .addr _ _ => "ADDR"
  | .subr _ _ => "SUBR"
  | .sr _ _ => "SR"
  | .rsub _ _ => "RSUB"
  | .sl _ _ => "SL"
  | .skiprneq _ _ => "SKIPRNEQ"
  | .si _ => "SI"
  | .pcn _ => "PCN"
  | .rand _ _ => "RAND"
  | .draw _ _ _ => "DRAW"
  | .skipkeq _ => "SKIPKEQ"
  | .skipkneq _ => "SKIPKNEQ"
  | .gdelay _ => "GDELAY"
  | .gkey _ => "GKEY"
  | .sdelay _ => "SDELAY"
  | .ssnd _ => "SSND"
  | .addi _ => "ADDI"
  | .sprite _ => "SPRITE"
  | .bcd _ => "BCD"
  | .rdump _ => "RDUMP"
  | .rload _ => "RLOAD"

/-- A row of R321's table: a word `w` selects it when `w` and the mask give the match value. -/
structure OpcodeRow where
  mnemonic : String
  value : Word
  mask : Word
deriving DecidableEq, Repr

/-- The word `w` selects the row (R321). -/
def OpcodeRow.selectedBy (r : OpcodeRow) (w : Word) : Bool := w &&& r.mask == r.value

/-- The rows of R321 that have a fixed word or a fixed family and no sub-opcode. -/
def opcodeRowsByFamily : List OpcodeRow :=
  [⟨"CLS", 0x00E0, 0xFFFF⟩, ⟨"RET", 0x00EE, 0xFFFF⟩, ⟨"JMP", 0x1000, 0xF000⟩, ⟨"CALL", 0x2000, 0xF000⟩,
   ⟨"SKIPEQ", 0x3000, 0xF000⟩, ⟨"SKIPNEQ", 0x4000, 0xF000⟩, ⟨"MOV", 0x6000, 0xF000⟩,
   ⟨"ADD", 0x7000, 0xF000⟩, ⟨"SI", 0xA000, 0xF000⟩, ⟨"PCN", 0xB000, 0xF000⟩, ⟨"RAND", 0xC000, 0xF000⟩,
   ⟨"DRAW", 0xD000, 0xF000⟩]

/-- The rows of R321 selected by family and lowest nibble. -/
def opcodeRowsByNibble : List OpcodeRow :=
  [⟨"SKIPREQ", 0x5000, 0xF00F⟩, ⟨"MOVR", 0x8000, 0xF00F⟩, ⟨"OR", 0x8001, 0xF00F⟩,
   ⟨"AND", 0x8002, 0xF00F⟩, ⟨"XOR", 0x8003, 0xF00F⟩, ⟨"ADDR", 0x8004, 0xF00F⟩,
   ⟨"SUBR", 0x8005, 0xF00F⟩, ⟨"SR", 0x8006, 0xF00F⟩, ⟨"RSUB", 0x8007, 0xF00F⟩, ⟨"SL", 0x800E, 0xF00F⟩,
   ⟨"SKIPRNEQ", 0x9000, 0xF00F⟩]

/-- The rows of R321 selected by family and lowest byte. -/
def opcodeRowsByByte : List OpcodeRow :=
  [⟨"SKIPKEQ", 0xE09E, 0xF0FF⟩, ⟨"SKIPKNEQ", 0xE0A1, 0xF0FF⟩, ⟨"GDELAY", 0xF007, 0xF0FF⟩,
   ⟨"GKEY", 0xF00A, 0xF0FF⟩, ⟨"SDELAY", 0xF015, 0xF0FF⟩, ⟨"SSND", 0xF018, 0xF0FF⟩,
   ⟨"ADDI", 0xF01E, 0xF0FF⟩, ⟨"SPRITE", 0xF029, 0xF0FF⟩, ⟨"BCD", 0xF033, 0xF0FF⟩,
   ⟨"RDUMP", 0xF055, 0xF0FF⟩, ⟨"RLOAD", 0xF065, 0xF0FF⟩]

/-- The 34 rows of R321. -/
def opcodeTable : List OpcodeRow := opcodeRowsByFamily ++ opcodeRowsByNibble ++ opcodeRowsByByte

end Sys2Proof
end

