-- ==== Sys2Proof/Machine/Params.lean ====
section
/-! DEFINITION. The literals of the machine: the fixed parameters of spec/00_scope.md R10 and the defaults
that R11 and table T1 of spec/93_implementation_defined.md give the open ones. -/

namespace Sys2Proof.Machine

/-- Memory has 4096 bytes, addresses 0x000..0xFFF (R10, R200). -/
abbrev memSize : Nat := 0x1000

/-- The program load address and the reset value of `pc` (R10, R150). -/
abbrev loadAddress : Nat := 0x200

/-- Bytes of the framebuffer: 64 x 32 pixels, 8 a byte (R10, R700). -/
abbrev frameBytes : Nat := 256

/-- Pixels in a row of the frame (R10, R700). -/
abbrev screenWidth : Nat := 64

/-- Rows of the frame (R10, R700). -/
abbrev screenHeight : Nat := 32

/-- Bytes of one glyph, one a row (R231). -/
abbrev glyphBytes : Nat := 5

/-- Bytes of the font, 16 glyphs (R10, R231). -/
abbrev fontBytes : Nat := 80

/-- Glyphs 0 to 7 of table T1, top row first. -/
def fontLowDigits : List Byte :=
  [0xF0, 0x90, 0x90, 0x90, 0xF0,  0x20, 0x60, 0x20, 0x20, 0x70,
   0xF0, 0x10, 0xF0, 0x80, 0xF0,  0xF0, 0x10, 0xF0, 0x10, 0xF0,
   0x90, 0x90, 0xF0, 0x10, 0x10,  0xF0, 0x80, 0xF0, 0x10, 0xF0,
   0xF0, 0x80, 0xF0, 0x90, 0xF0,  0xF0, 0x10, 0x20, 0x40, 0x40]

/-- Glyphs 8 to F of table T1, top row first. -/
def fontHighDigits : List Byte :=
  [0xF0, 0x90, 0xF0, 0x90, 0xF0,  0xF0, 0x90, 0xF0, 0x10, 0xF0,
   0xF0, 0x90, 0xF0, 0x90, 0x90,  0xE0, 0x90, 0xE0, 0x90, 0xE0,
   0xF0, 0x80, 0x80, 0x80, 0xF0,  0xE0, 0x90, 0x90, 0x90, 0xE0,
   0xF0, 0x80, 0xF0, 0x80, 0xF0,  0xF0, 0x80, 0xF0, 0x80, 0x80]

/-- The default `FONT_DATA`, table T1 (R11, R231). -/
def defaultFont : List Byte := fontLowDigits ++ fontHighDigits

/-- The defaults of R11. DESIGN CHOICE of the spec, unsafe for a claim that rests on them
(notes/assumptions/1.md). -/
def defaultConfig : Config :=
  { stackCapacity := 16, fontBase := 0x000, fontData := defaultFont,
    frameBase := 0xF00, reservedBase := 0xEA0 }

end Sys2Proof.Machine
end

