-- ==== Sys2Proof/Machine/State.lean ====
section
/-! DEFINITION. The state of the core as plain data (spec/10_state.md), the fault records, the reasons a
step can stop, and the state after reset (R150, R900). -/

namespace Sys2Proof.Machine

/-- The faults of R800 with the information each one records besides `pc`. They are raised INTO the state:
a faulting step answers a next state whose `halt` holds the record (R820). -/
inductive FaultKind where
  /-- Code 1: the fetched word decodes to "undefined" (R801). Raised by the step. Safe: the spec's own. -/
  | undefinedInstruction (word : Word)
  /-- Code 2: CALL with a full stack (R802). Safe: the spec's own. -/
  | stackOverflow
  /-- Code 3: RET with an empty stack (R803). Safe: the spec's own. -/
  | stackUnderflow
  /-- Code 4: a program access at an address >= 0x1000 (R804). Safe: the spec's own, decision D6. -/
  | addressFault (address : Nat)
  /-- Code 5: a program access in RESERVED_BASE..0xFFF (R805). Safe: the spec's own, decision D5. -/
  | reservedAccess (address : Nat)
  /-- Code 6: SPRITE with Vx above 0x0F (R806). Safe: the spec's own, decision D13. -/
  | spriteDigitRange (value : Byte)
  /-- Code 7: in the table of R800 and never raised inside the core (R808). -/
  | invalidRegister
deriving DecidableEq, Repr

/-- The fault record: code and info (in `kind`) and the address of the faulting instruction (R822). -/
structure FaultRecord where
  kind : FaultKind
  pc : Word
deriving DecidableEq, Repr

/-- Why the machine cannot take a step. -/
inductive Fault where
  /-- Raised by `step` on a halted core, with the record the faulting step left (R823: the request "is
  refused with the same record and changes no state"). Safe: the machine stops where the spec's does
  (notes/assumptions/6.md). No meaning of an instruction raises it. -/
  | halted (record : FaultRecord)
deriving DecidableEq, Repr

/-- Why the model has no answer. -/
inductive Refusal where
  /-- An instruction whose meaning is not written. Raised by no arm of `exec` now. Safe. -/
  | notModelled (mnemonic : String)
deriving DecidableEq, Repr

/-- Why the load port turns a program away (R911). -/
inductive LoadRefused where
  /-- The program does not fit below the reserved region. -/
  | tooLong
deriving DecidableEq, Repr

/-- Memory as cells at rising addresses; an unlisted address reads as its reset contents
(`resetByte`, notes/assumptions/4.md). -/
abbrev Memory := List Host.Cell

/-- MODEL's own: the host's answers to the draws of the steps to come (R25, R44). A scripted answer is
used first, the oldest first; with none left the answer is the free value at `draws`
(notes/assumptions/3.md). -/
structure HostInputs where
  clock : List Nat
  rands : List Byte
  keys : List Byte
  draws : Nat
deriving DecidableEq, Repr

/-- The state: the tuple of spec/10_state.md, then the configuration, then the model's own fields. -/
structure State where
  /-- V0..VF (R100). -/
  v : Vector Byte 16
  /-- The index register I (R115). -/
  i : Word
  /-- The program counter (R110). -/
  pc : Word
  /-- The number of call-stack entries in use (R120). -/
  sp : Nat
  /-- The call-stack entries, `stack[0]` first (R120). -/
  stack : List Word
  /-- The delay timer (R130). -/
  dt : Byte
  /-- The sound timer (R131). -/
  st : Byte
  /-- The 4096 bytes of memory, font and framebuffer included (R200). -/
  mem : Memory
  /-- The wall-clock reference of the timers, in milliseconds (R135, R840). -/
  tRef : Nat
  /-- The 60 Hz ticks already applied (R135, R844). -/
  ticks : Nat
  /-- The fault record of a halted core (R136, R820). -/
  halt : Option FaultRecord
  /-- The open parameters (R11), which no step writes. -/
  cfg : Config
  /-- MODEL's own: the host's answers to come. -/
  host : HostInputs
deriving DecidableEq, Repr

/-- What executing an instruction, or one step, answers. -/
abbrev StepResult := Host.Outcome State Fault Refusal

/-- Reset with the parameters `c` at the clock reading `now` (R150, R840, R900). -/
def State.resetAt (c : Config) (now : Nat) : State :=
  { v := Vector.replicate 16 0
    i := 0
    pc := BitVec.ofNat 16 loadAddress
    sp := 0
    stack := List.replicate c.stackCapacity 0
    dt := 0
    st := 0
    mem := []
    tRef := now
    ticks := 0
    halt := none
    cfg := c
    host := { clock := [], rands := [], keys := [], draws := 0 } }

/-- The machine right after reset, with the default parameters (notes/assumptions/1.md) and the clock's
origin at the reset (notes/assumptions/2.md). -/
def State.reset : State := State.resetAt defaultConfig 0

end Sys2Proof.Machine
end

