-- ==== Sys2Proof/Machine/Ops.lean ====
section
/-! DEFINITION. The named operations over the state: one update for each field, registers, memory and its
checks (spec/20_memory.md), the framebuffer bytes, the call stack and the program counter
(spec/10_state.md), and fault entry (spec/60_exceptions.md). -/

namespace Sys2Proof.Machine

/-! ## One update for each field -/

/-- `V[x]` (R22, R100). -/
def State.getV (s : State) (x : Reg) : Byte := s.v[x.toNat]'x.isLt

/-- `V[x] <- b` (R22, R100). -/
def State.setV (s : State) (x : Reg) (b : Byte) : State := { s with v := s.v.set x.toNat b x.isLt }

/-- `I <- w` (R115). -/
def State.setI (s : State) (w : Word) : State := { s with i := w }

/-- `pc <- w` (R110). -/
def State.setPc (s : State) (w : Word) : State := { s with pc := w }

/-- The stack pointer and the entries together; only CALL and RET use it (R123). -/
def State.setStack (s : State) (n : Nat) (entries : List Word) : State :=
  { s with sp := n, stack := entries }

/-- `DT <- b` (R130). -/
def State.setDt (s : State) (b : Byte) : State := { s with dt := b }

/-- `ST <- b` (R131). -/
def State.setSt (s : State) (b : Byte) : State := { s with st := b }

/-- The whole memory. -/
def State.setMem (s : State) (m : Memory) : State := { s with mem := m }

/-- `ticks <- n` (R844). -/
def State.setTicks (s : State) (n : Nat) : State := { s with ticks := n }

/-- `halt <- h` (R136). -/
def State.setHalt (s : State) (h : Option FaultRecord) : State := { s with halt := h }

/-- The host's answers to come. -/
def State.setHost (s : State) (h : HostInputs) : State := { s with host := h }

/-! ## Memory cells -/

/-- What a byte nothing has written reads as: its reset contents, the font bytes in the font region and
0x00 elsewhere (R150, R231; notes/assumptions/4.md). -/
def resetByte (c : Config) (a : Nat) : Byte :=
  if c.fontBase ≤ a ∧ a < c.fontBase + fontBytes then c.fontData.getD (a - c.fontBase) 0 else 0

/-- The byte at an address (R200). -/
def Memory.read (c : Config) (m : Memory) (a : Nat) : Byte :=
  match m with
  | [] => resetByte c a
  | (k, b) :: rest => if a = k then b else Memory.read c rest a

/-- Store a byte, keeping the cells in rising order and listing none that holds its reset contents. -/
def Memory.write (c : Config) (m : Memory) (a : Nat) (v : Byte) : Memory :=
  match m with
  | [] => if v = resetByte c a then [] else [(a, v)]
  | (k, b) :: rest =>
    if a < k then
      if v = resetByte c a then (k, b) :: rest else (a, v) :: (k, b) :: rest
    else if a = k then
      if v = resetByte c a then rest else (a, v) :: rest
    else
      (k, b) :: Memory.write c rest a v

/-- The canonical form: addresses strictly rising and inside memory, and no cell that holds what an
unlisted address reads as, so that equal memories are equal data (R151, R200). -/
abbrev Memory.wf (c : Config) (m : Memory) : Prop :=
  m.Pairwise (fun p q => p.1 < q.1) ∧ ∀ p ∈ m, p.1 < memSize ∧ p.2 ≠ resetByte c p.1

/-- `mem[a]`. -/
def State.byte (s : State) (a : Nat) : Byte := Memory.read s.cfg s.mem a

/-- `mem[a] <- b`. -/
def State.setByte (s : State) (a : Nat) (b : Byte) : State := s.setMem (Memory.write s.cfg s.mem a b)

/-! ## Program accesses (R220, R221, R590) -/

/-- `ProgCheck(a)` on an address computed without wrap: the fault the access raises, if any (R220). -/
def progCheck (c : Config) (a : Nat) : Option FaultKind :=
  if memSize ≤ a then some (.addressFault a)
  else if c.reservedBase ≤ a then some (.reservedAccess a)
  else none

/-- `MemRead(a, 1)` (R220). -/
def State.memRead (s : State) (a : Nat) : Except FaultKind Byte :=
  match progCheck s.cfg a with
  | some k => .error k
  | none => .ok (s.byte a)

/-- `MemWrite(a, 1, b)` (R220). -/
def State.memWrite (s : State) (a : Nat) (b : Byte) : Except FaultKind State :=
  match progCheck s.cfg a with
  | some k => .error k
  | none => .ok (s.setByte a b)

/-- `n` bytes read at rising addresses from `a` on; the first failing access is the fault (R591). -/
def State.readBytes (s : State) (n a : Nat) : Except FaultKind (List Byte) :=
  match n with
  | 0 => .ok []
  | n + 1 =>
    match s.memRead a with
    | .error k => .error k
    | .ok b =>
      match s.readBytes n (a + 1) with
      | .error k => .error k
      | .ok bs => .ok (b :: bs)

/-- Bytes written at rising addresses from `a` on; the first failing access is the fault (R591). -/
def State.writeBytes (s : State) (a : Nat) (bytes : List Byte) : Except FaultKind State :=
  match bytes with
  | [] => .ok s
  | b :: bs =>
    match s.memWrite a b with
    | .error k => .error k
    | .ok t => t.writeBytes (a + 1) bs

/-- `Fetch(pc)`: the big-endian word at `pc` and `pc + 1`, both checked, in that order (R210, R221). -/
def State.fetch (s : State) : Except FaultKind Word :=
  match s.memRead s.pc.toNat with
  | .error k => .error k
  | .ok hi =>
    match s.memRead (s.pc.toNat + 1) with
    | .error k => .error k
    | .ok lo => .ok (wordOfBytes hi lo)

/-- Fetch and decode, phase 2 of the step: an undefined word is a fault (R400, R331, R801, R810). -/
def State.fetchInstr (s : State) : Except FaultKind Instr :=
  match s.fetch with
  | .error k => .error k
  | .ok w =>
    match decode w with
    | none => .error (.undefinedInstruction w)
    | some i => .ok i

/-- Bytes stored at rising addresses with no check: the load port and the fetch of a placed word. -/
def State.storeBytes (s : State) (a : Nat) (bytes : List Byte) : State :=
  match bytes with
  | [] => s
  | b :: bs => (s.setByte a b).storeBytes (a + 1) bs

/-! ## The framebuffer bytes (R223): no check -/

/-- `FB[k]`. -/
def frameRead (c : Config) (m : Memory) (k : Nat) : Byte := Memory.read c m (c.frameBase + k)

/-- `FB[k] <- b`. -/
def frameWrite (c : Config) (m : Memory) (k : Nat) (b : Byte) : Memory :=
  Memory.write c m (c.frameBase + k) b

/-! ## The program counter (R111) -/

/-- The default advance: `pc <- (pc + 2) mod 2^16`. -/
def State.advance (s : State) : State := s.setPc (s.pc + 2)

/-- The skip form: 4 when the condition holds, else 2 (R111, R440). -/
def State.skipIf (s : State) (c : Bool) : State := s.setPc (if c then s.pc + 4 else s.pc + 2)

/-- The explicit form: `pc <- target`, with no further advance. -/
def State.jump (s : State) (target : Word) : State := s.setPc target

/-! ## The call stack (R120 to R122) -/

/-- `Push(a)` (R121). -/
def State.push (s : State) (a : Word) : Except FaultKind State :=
  if s.sp = s.cfg.stackCapacity then .error .stackOverflow
  else .ok (s.setStack (s.sp + 1) (s.stack.set s.sp a))

/-- `Pop()`: the value read and the state after; the entry keeps its value (R122). An entry the stack
does not have, which no reachable state can name, reads as 0 (notes/assumptions/7.md). -/
def State.pop (s : State) : Except FaultKind (Word × State) :=
  if s.sp = 0 then .error .stackUnderflow
  else .ok (s.stack.getD (s.sp - 1) 0, s.setStack (s.sp - 1) s.stack)

/-! ## Fault entry (R24, R820 to R822), and no return from it (R823) -/

/-- The numeric code of a fault (R800). -/
def FaultKind.code : FaultKind → Nat
  | .undefinedInstruction _ => 1
  | .stackOverflow => 2
  | .stackUnderflow => 3
  | .addressFault _ => 4
  | .reservedAccess _ => 5
  | .spriteDigitRange _ => 6
  | .invalidRegister => 7

/-- The information a fault records besides `pc` (R800): the word, the address or the digit. -/
def FaultKind.info : FaultKind → Option Nat
  | .undefinedInstruction w => some w.toNat
  | .stackOverflow => none
  | .stackUnderflow => none
  | .addressFault a => some a
  | .reservedAccess a => some a
  | .spriteDigitRange d => some d.toNat
  | .invalidRegister => none

/-- Fault entry, the one shared operation: applied to the state before the instruction, so that every
write of the instruction is discarded; `halt` takes the record and `pc` stays (R24, R401, R820 to R822). -/
def State.raise (s : State) (k : FaultKind) : State := s.setHalt (some { kind := k, pc := s.pc })

/-- End an instruction that can fault: its result, or fault entry from the state `s` before it (R24). -/
def State.settle (s : State) (r : Except FaultKind State) : StepResult :=
  match r with
  | .ok t => .next t
  | .error k => .next (s.raise k)

end Sys2Proof.Machine
end

