-- ==== Sys2Proof/Machine/Flags.lean ====
section
/-! DEFINITION. Every flag computation of the spec (spec/10_state.md R103, R104; spec/42_alu.md;
spec/45_display.md R720). The one flag is VF, and it is 0 or 1 after a flag is written. -/

namespace Sys2Proof.Machine

/-- VF, the flag register, is general register 0xF (R22, R102). -/
def flagReg : Reg := 0xF

/-- A flag value from its condition (R104). -/
def flagOf (c : Bool) : Byte := if c then 1 else 0

/-- ADDR's carry out of bit 7 (R514). -/
def carryFlag (a b : Byte) : Byte := flagOf (decide (256 ≤ a.toNat + b.toNat))

/-- NOT borrow of `a - b`: 1 when no borrow, `a >= b` (R515, R517, C6). -/
def noBorrowFlag (a b : Byte) : Byte := flagOf (decide (b.toNat ≤ a.toNat))

/-- The bit SR shifts out: bit 0 of the old Vy (R516). -/
def shiftedOutRight (b : Byte) : Byte := b &&& 1

/-- The bit SL shifts out: bit 7 of the old Vy (R518). -/
def shiftedOutLeft (b : Byte) : Byte := (b >>> 7) &&& 1

/-- DRAW's collision flag (R720). -/
def collisionFlag (hit : Bool) : Byte := flagOf hit

/-- The flag write, the last register write of its instruction (R104, R531). -/
def State.setFlag (s : State) (f : Byte) : State := s.setV flagReg f

end Sys2Proof.Machine
end

