-- ==== Sys2Proof/Machine/Operands.lean ====
section
/-! DEFINITION. Every operand form: immediates (spec/30_encoding.md R311), the one addressing mode
(spec/43_index_memory.md R590), BCD's digits, the registers of a transfer, and the host's answers
(spec/00_scope.md R25; spec/60_exceptions.md R860 to R863). -/

namespace Sys2Proof.Machine

/-- A 12-bit address zero-extended to 16 bits (R311). -/
def addrWord (nnn : Addr) : Word := nnn.setWidth 16

/-- A byte zero-extended to 16 bits (R413, R605). -/
def byteWord (b : Byte) : Word := b.setWidth 16

/-- The effective address of a transfer's k-th byte, `I + k`, an unbounded natural number (R590). -/
def State.effective (s : State) (k : Nat) : Nat := s.i.toNat + k

/-- The address of the glyph of digit `d` (R231, R610). -/
def glyphAddress (c : Config) (d : Byte) : Word := BitVec.ofNat 16 (c.fontBase + glyphBytes * d.toNat)

/-- Hundreds, tens and ones, in the order BCD stores them (R620). -/
def bcdDigits (v : Byte) : List Byte :=
  [BitVec.ofNat 8 (v.toNat / 100), BitVec.ofNat 8 (v.toNat / 10 % 10), BitVec.ofNat 8 (v.toNat % 10)]

/-- The number of registers RDUMP and RLOAD move, V0..Vx inclusive (R630, R640). -/
def transferCount (x : Reg) : Nat := x.toNat + 1

/-- V0, V1, ... as RDUMP stores them (R630). -/
def State.dumpedV (s : State) (n : Nat) : List Byte :=
  (List.range n).map (fun k => s.getV (BitVec.ofNat 4 k))

/-- `V[k] <- b` for the bytes in turn, from register `k` on, as RLOAD writes them (R640). -/
def State.loadV (s : State) (k : Nat) (bytes : List Byte) : State :=
  match bytes with
  | [] => s
  | b :: bs => (s.setV (BitVec.ofNat 4 k) b).loadV (k + 1) bs

/-! ## The host's answers: the scripted one if there is one, else the free value -/

/-- What the next `Now()` answers (R25, R860). -/
def State.nowAnswer (s : State) : Nat :=
  match s.host.clock with
  | [] => Config.freeNow s.host.draws
  | n :: _ => n

/-- The host's inputs after a draw of `Now()`. -/
def State.takeNow (s : State) : State :=
  match s.host.clock with
  | [] => s.setHost { s.host with draws := s.host.draws + 1 }
  | _ :: rest => s.setHost { s.host with clock := rest }

/-- What the next `RandByte()` answers, any 8-bit value (R25, R861). -/
def State.randAnswer (s : State) : Byte :=
  match s.host.rands with
  | [] => Config.freeRand s.host.draws
  | b :: _ => b

/-- The host's inputs after a draw of `RandByte()`. -/
def State.takeRand (s : State) : State :=
  match s.host.rands with
  | [] => s.setHost { s.host with draws := s.host.draws + 1 }
  | _ :: rest => s.setHost { s.host with rands := rest }

/-- What the next `KeyAnswer()` answers a key skip, any 8-bit value (R25, R862). -/
def State.keyAnswer (s : State) : Byte :=
  match s.host.keys with
  | [] => Config.freeKey s.host.draws
  | b :: _ => b

/-- The host's inputs after a key skip's draw of `KeyAnswer()`. -/
def State.takeKey (s : State) : State :=
  match s.host.keys with
  | [] => s.setHost { s.host with draws := s.host.draws + 1 }
  | _ :: rest => s.setHost { s.host with keys := rest }

/-- The scripted answers from the first key 0x0..0xF on: "any other input is ignored and queried again"
while GKEY waits (R863). -/
def keysFromTheFirst (answers : List Byte) : List Byte :=
  match answers with
  | [] => []
  | k :: rest => if k.toNat ≤ 0xF then k :: rest else keysFromTheFirst rest

/-- The key with which `KeyAnswer()` ends the wait of a GKEY: the first scripted answer in 0x0..0xF, else a
free key (R663, R863, D14). -/
def State.awaitedKey (s : State) : Byte :=
  match keysFromTheFirst s.host.keys with
  | [] => (Config.freeAwaitedKey s.host.draws).setWidth 8
  | k :: _ => k

/-- The host's inputs after that draw: the ignored answers and the key are used up. -/
def State.takeAwaitedKey (s : State) : State :=
  match keysFromTheFirst s.host.keys with
  | [] => s.setHost { s.host with keys := [], draws := s.host.draws + 1 }
  | _ :: rest => s.setHost { s.host with keys := rest }

end Sys2Proof.Machine
end

