-- ==== Sys2Proof/Machine/Alu.lean ====
section
/-! DEFINITION. The ALU instructions (spec/42_alu.md). Operands are read before any write, and writes go
Vy (SR, SL), Vx, VF (R531). -/

namespace Sys2Proof.Machine

/-- MOV (R500). -/
def execMov (x : Reg) (kk : Byte) (s : State) : StepResult := .next (s.setV x kk).advance

/-- ADD: wraps silently, no flag (R501, C4). -/
def execAdd (x : Reg) (kk : Byte) (s : State) : StepResult := .next (s.setV x (s.getV x + kk)).advance

/-- MOVR (R510). -/
def execMovr (x y : Reg) (s : State) : StepResult := .next (s.setV x (s.getV y)).advance

/-- OR: VF is not written (R511, D10). -/
def execOr (x y : Reg) (s : State) : StepResult := .next (s.setV x (s.getV x ||| s.getV y)).advance

/-- AND: VF is not written (R512, D10). -/
def execAnd (x y : Reg) (s : State) : StepResult := .next (s.setV x (s.getV x &&& s.getV y)).advance

/-- XOR: VF is not written (R513, D10). -/
def execXor (x y : Reg) (s : State) : StepResult := .next (s.setV x (s.getV x ^^^ s.getV y)).advance

/-- ADDR: VF is the carry (R514). -/
def execAddr (x y : Reg) (s : State) : StepResult :=
  .next ((s.setV x (s.getV x + s.getV y)).setFlag (carryFlag (s.getV x) (s.getV y))).advance

/-- SUBR: Vx - Vy, VF is NOT borrow (R515). -/
def execSubr (x y : Reg) (s : State) : StepResult :=
  .next ((s.setV x (s.getV x - s.getV y)).setFlag (noBorrowFlag (s.getV x) (s.getV y))).advance

/-- SR: Vy shifted right by one into Vy and Vx, VF is the bit shifted out (R516). -/
def execSr (x y : Reg) (s : State) : StepResult :=
  .next (((s.setV y (s.getV y >>> 1)).setV x (s.getV y >>> 1)).setFlag (shiftedOutRight (s.getV y))).advance

/-- RSUB: Vy - Vx, VF is NOT borrow (R517). -/
def execRsub (x y : Reg) (s : State) : StepResult :=
  .next ((s.setV x (s.getV y - s.getV x)).setFlag (noBorrowFlag (s.getV y) (s.getV x))).advance

/-- SL: Vy shifted left by one into Vy and Vx, VF is the bit shifted out (R518). -/
def execSl (x y : Reg) (s : State) : StepResult :=
  .next (((s.setV y (s.getV y <<< 1)).setV x (s.getV y <<< 1)).setFlag (shiftedOutLeft (s.getV y))).advance

/-- RAND: the host's random byte masked by kk (R520). -/
def execRand (x : Reg) (kk : Byte) (s : State) : StepResult :=
  .next (s.takeRand.setV x (s.randAnswer &&& kk)).advance

end Sys2Proof.Machine
end

