-- ==== Sys2Proof/Machine/Control.lean ====
section
/-! DEFINITION. JMP, CALL, RET, PCN (spec/40_control.md). -/

namespace Sys2Proof.Machine

/-- JMP (R410). -/
def execJmp (nnn : Addr) (s : State) : StepResult := .next (s.jump (addrWord nnn))

/-- CALL: push the address of the next word, then jump (R411, C3). -/
def execCall (nnn : Addr) (s : State) : StepResult :=
  s.settle ((s.push (s.pc + 2)).map (fun t => t.jump (addrWord nnn)))

/-- RET: jump to the popped address, with no further advance (R412). -/
def execRet (s : State) : StepResult := s.settle (s.pop.map (fun p => p.2.jump p.1))

/-- PCN: jump to nnn + V0, not reduced to 12 bits (R413). -/
def execPcn (nnn : Addr) (s : State) : StepResult := .next (s.jump (addrWord nnn + byteWord (s.getV 0)))

end Sys2Proof.Machine
end

