-- ==== Sys2Proof/Machine/Display.lean ====
section
/-! DEFINITION. Pixel addressing, CLS and DRAW (spec/45_display.md). -/

namespace Sys2Proof.Machine

/-! ## Pixel addressing (R700, R701): the single source of truth for DRAW and the pixel port -/

/-- The framebuffer byte that holds pixel (X, Y). -/
def pixAddr (X Y : Nat) : Nat := X / 8 + Y * 8

/-- The bit of that byte: the leftmost pixel is the least significant bit. -/
def pixMask (X : Nat) : Byte := 1#8 <<< (X % 8)

/-- Pixel (X, Y) is lit (R700, R702). -/
def pixelLit (c : Config) (m : Memory) (X Y : Nat) : Bool :=
  frameRead c m (pixAddr X Y) &&& pixMask X != 0

/-- The position is inside the 64 x 32 frame (R700, R720). -/
def onScreen (X Y : Nat) : Bool := decide (X < screenWidth) && decide (Y < screenHeight)

/-! ## CLS (R710) -/

/-- The first `n` framebuffer bytes set to 0x00. -/
def clearFrame (c : Config) (m : Memory) (n : Nat) : Memory :=
  match n with
  | 0 => m
  | n + 1 => frameWrite c (clearFrame c m n) n 0

/-- CLS (R710). -/
def execCls (s : State) : StepResult := .next (s.setMem (clearFrame s.cfg s.mem frameBytes)).advance

/-! ## DRAW (R720) -/

/-- The columns of a sprite row whose bit is 1, bit 7 the leftmost (R720, "MSB first"). -/
def litColumns (row : Byte) : List Nat := (List.range 8).filter (fun col => row.getLsbD (7 - col))

/-- The pixels of a sprite at (px, py), row by row and column by column, those that fall outside the
frame dropped, not wrapped (R720). -/
def spritePixels (px py : Nat) (rows : List Byte) : List (Nat × Nat) :=
  match rows with
  | [] => []
  | b :: bs =>
    (((litColumns b).map (fun col => (px + col, py))).filter (fun p => onScreen p.1 p.2))
      ++ spritePixels px (py + 1) bs

/-- The framebuffer while a sprite is drawn, and whether a lit pixel has been turned off. -/
structure Blit where
  mem : Memory
  hit : Bool
deriving DecidableEq, Repr

/-- XOR one pixel into the frame; turning a lit one off is a collision (R720). -/
def Blit.toggle (c : Config) (d : Blit) (p : Nat × Nat) : Blit :=
  { mem := frameWrite c d.mem (pixAddr p.1 p.2) (frameRead c d.mem (pixAddr p.1 p.2) ^^^ pixMask p.1)
    hit := d.hit || pixelLit c d.mem p.1 p.2 }

/-- XOR pixels into the frame, in order. -/
def blit (c : Config) (m : Memory) (pixels : List (Nat × Nat)) : Blit :=
  pixels.foldl (Blit.toggle c) { mem := m, hit := false }

/-- DRAW with the sprite rows already read: the frame, then VF, then pc (R720). -/
def State.drawRows (s : State) (px py : Byte) (rows : List Byte) : State :=
  let d := blit s.cfg s.mem (spritePixels px.toNat py.toNat rows)
  ((s.setMem d.mem).setFlag (collisionFlag d.hit)).advance

/-- DRAW: all `n` rows are read and checked before anything is drawn (R720, D20). -/
def execDraw (x y : Reg) (n : Nibble) (s : State) : StepResult :=
  s.settle ((s.readBytes n.toNat (s.effective 0)).map (fun rows => s.drawRows (s.getV x) (s.getV y) rows))

end Sys2Proof.Machine
end

