-- ==== Sys2Proof/Machine/Index.lean ====
section
/-! DEFINITION. Index register and memory instructions (spec/43_index_memory.md). -/

namespace Sys2Proof.Machine

/-- SI (R600). -/
def execSi (nnn : Addr) (s : State) : StepResult := .next (s.setI (addrWord nnn)).advance

/-- ADDI: all 16 bits kept, VF not written (R605, D12). -/
def execAddi (x : Reg) (s : State) : StepResult := .next (s.setI (s.i + byteWord (s.getV x))).advance

/-- SPRITE: I points at the glyph of digit Vx; a digit above 0xF faults (R610, D13). -/
def execSprite (x : Reg) (s : State) : StepResult :=
  s.settle
    (if 0xF < (s.getV x).toNat then .error (.spriteDigitRange (s.getV x))
     else .ok (s.setI (glyphAddress s.cfg (s.getV x))).advance)

/-- BCD: the three digits at I, I+1, I+2; I unchanged (R620). -/
def execBcd (x : Reg) (s : State) : StepResult :=
  s.settle ((s.writeBytes (s.effective 0) (bcdDigits (s.getV x))).map State.advance)

/-- `I <- (I + x + 1) mod 2^16`, after a transfer of V0..Vx (R630, R640). -/
def State.bumpI (s : State) (x : Reg) : State := s.setI (s.i + BitVec.ofNat 16 (transferCount x))

/-- RDUMP: V0..Vx to memory from I on, then I moves past them (R630). -/
def execRdump (x : Reg) (s : State) : StepResult :=
  s.settle
    ((s.writeBytes (s.effective 0) (s.dumpedV (transferCount x))).map (fun t => (t.bumpI x).advance))

/-- RLOAD: V0..Vx from memory from I on, then I moves past them (R640). -/
def execRload (x : Reg) (s : State) : StepResult :=
  s.settle
    ((s.readBytes (transferCount x) (s.effective 0)).map (fun bytes => ((s.loadV 0 bytes).bumpI x).advance))

end Sys2Proof.Machine
end

