-- ==== Sys2Proof/Machine/Skip.lean ====
section
/-! DEFINITION. The conditional skips (spec/41_skip.md). -/

namespace Sys2Proof.Machine

/-- SKIPEQ (R450). -/
def execSkipeq (x : Reg) (kk : Byte) (s : State) : StepResult := .next (s.skipIf (s.getV x == kk))

/-- SKIPNEQ (R451). -/
def execSkipneq (x : Reg) (kk : Byte) (s : State) : StepResult := .next (s.skipIf (s.getV x != kk))

/-- SKIPREQ (R452). -/
def execSkipreq (x y : Reg) (s : State) : StepResult := .next (s.skipIf (s.getV x == s.getV y))

/-- SKIPRNEQ (R453). -/
def execSkiprneq (x y : Reg) (s : State) : StepResult := .next (s.skipIf (s.getV x != s.getV y))

/-- SKIPKEQ: all 8 bits of the host's answer are compared (R454). -/
def execSkipkeq (x : Reg) (s : State) : StepResult := .next (s.takeKey.skipIf (s.getV x == s.keyAnswer))

/-- SKIPKNEQ (R455). -/
def execSkipkneq (x : Reg) (s : State) : StepResult := .next (s.takeKey.skipIf (s.getV x != s.keyAnswer))

end Sys2Proof.Machine
end

