-- ==== Sys2Proof/Machine/TimerKey.lean ====
section
/-! DEFINITION. Timer and key instructions (spec/44_timer_key.md). -/

namespace Sys2Proof.Machine

/-- GDELAY: DT as this step's reconciliation left it (R650). -/
def execGdelay (x : Reg) (s : State) : StepResult := .next (s.setV x s.dt).advance

/-- SDELAY: neither the reference nor the tick count is reset (R655). -/
def execSdelay (x : Reg) (s : State) : StepResult := .next (s.setDt (s.getV x)).advance

/-- SSND (R658). -/
def execSsnd (x : Reg) (s : State) : StepResult := .next (s.setSt (s.getV x)).advance

/-- GKEY: the key that ends the wait goes into Vx. The whole step, its wait included, is "one atomic
transition" (R663, D14), so the wait is no state (R137; notes/assumptions/5.md). -/
def execGkey (x : Reg) (s : State) : StepResult := .next (s.takeAwaitedKey.setV x s.awaitedKey).advance

end Sys2Proof.Machine
end

