-- ==== Sys2Proof/Machine/Dispatch.lean ====
section
/-! DEFINITION. Execute(op), phase 3 of the step (spec/40_control.md R400): one arm for each instruction. -/

namespace Sys2Proof.Machine

def exec (i : Instr) (s : State) : Host.Outcome State Fault Refusal :=
  match i with
  | .cls => Sys2Proof.Machine.execCls s
  | .ret => Sys2Proof.Machine.execRet s
  | .jmp nnn => Sys2Proof.Machine.execJmp nnn s
  | .call nnn => Sys2Proof.Machine.execCall nnn s
  | .skipeq x kk => Sys2Proof.Machine.execSkipeq x kk s
  | .skipneq x kk => Sys2Proof.Machine.execSkipneq x kk s
  | .skipreq x y => Sys2Proof.Machine.execSkipreq x y s
  | .mov x kk => Sys2Proof.Machine.execMov x kk s
  | .add x kk => Sys2Proof.Machine.execAdd x kk s
  | .movr x y => Sys2Proof.Machine.execMovr x y s
  | .or x y => Sys2Proof.Machine.execOr x y s
  | .and x y => Sys2Proof.Machine.execAnd x y s
  | .xor x y => Sys2Proof.Machine.execXor x y s
  | .addr x y => Sys2Proof.Machine.execAddr x y s
  | .subr x y => Sys2Proof.Machine.execSubr x y s
  | .sr x y => Sys2Proof.Machine.execSr x y s
  | .rsub x y => Sys2Proof.Machine.execRsub x y s
  | .sl x y => Sys2Proof.Machine.execSl x y s
  | .skiprneq x y => Sys2Proof.Machine.execSkiprneq x y s
  | .si nnn => Sys2Proof.Machine.execSi nnn s
  | .pcn nnn => Sys2Proof.Machine.execPcn nnn s
  | .rand x kk => Sys2Proof.Machine.execRand x kk s
  | .draw x y n => Sys2Proof.Machine.execDraw x y n s
  | .skipkeq x => Sys2Proof.Machine.execSkipkeq x s
  | .skipkneq x => Sys2Proof.Machine.execSkipkneq x s
  | .gdelay x => Sys2Proof.Machine.execGdelay x s
  | .gkey x => Sys2Proof.Machine.execGkey x s
  | .sdelay x => Sys2Proof.Machine.execSdelay x s
  | .ssnd x => Sys2Proof.Machine.execSsnd x s
  | .addi x => Sys2Proof.Machine.execAddi x s
  | .sprite x => Sys2Proof.Machine.execSprite x s
  | .bcd x => Sys2Proof.Machine.execBcd x s
  | .rdump x => Sys2Proof.Machine.execRdump x s
  | .rload x => Sys2Proof.Machine.execRload x s

end Sys2Proof.Machine
end

