-- ==== Sys2Proof/Machine/Timers.lean ====
section
/-! DEFINITION. The timer countdown unit and phase 1 of the step (spec/60_exceptions.md R840 to R847;
spec/40_control.md R400). -/

namespace Sys2Proof.Machine

/-- `expected(now)`: the ticks due at `now`, 60 a second, rounded down; none before the reference (R841). -/
def expectedTicks (tRef now : Nat) : Nat := if tRef ≤ now then (now - tRef) * 60 / 1000 else 0

/-- The ticks owed (R842). -/
def owedTicks (ticks expected : Nat) : Nat := if ticks < expected then expected - ticks else 0

/-- A timer after the owed ticks, floored at 0 (R843). -/
def countDown (t : Byte) (owed : Nat) : Byte := BitVec.ofNat 8 (t.toNat - min t.toNat owed)

/-- `ReconcileTimers(now)` (R844). -/
def State.reconcile (s : State) (now : Nat) : State :=
  let expected := expectedTicks s.tRef now
  let owed := owedTicks s.ticks expected
  ((s.setDt (countDown s.dt owed)).setSt (countDown s.st owed)).setTicks (max s.ticks expected)

/-- Phase 1 of the step: the clock is read once and the timers are reconciled (R400, R404, R845). -/
def State.beginStep (s : State) : State := s.takeNow.reconcile s.nowAnswer

end Sys2Proof.Machine
end

