-- ==== Sys2Proof/Machine/Step.lean ====
section
/-! DEFINITION. One step of the core (spec/40_control.md R400), and the placing of a word where the step
fetches. -/

namespace Sys2Proof.Machine

/-- The step: a halted core takes none (R823); otherwise phase 1, the timers; phase 2, fetch and decode;
phase 3, execute. A fault of phase 2 is fault entry from the state phase 1 left (R400, R401, R810). -/
def step (s : State) : Host.Outcome State Fault Refusal :=
  match s.halt with
  | some r => .fault (.halted r)
  | none =>
    match s.beginStep.fetchInstr with
    | .error k => .next (s.beginStep.raise k)
    | .ok i => exec i s.beginStep

/-- The state with the opcode-table word `w` of `nbits` bits stored at `pc`, high byte first (R210);
nothing else changes (notes/assumptions/8.md). -/
def State.withFetchWord (s : State) (nbits w : Nat) : State :=
  s.storeBytes s.pc.toNat [highByte (tableWord nbits w), lowByte (tableWord nbits w)]

end Sys2Proof.Machine
end

