-- ==== Sys2Proof/Machine/HostPort.lean ====
section
/-! DEFINITION. The host's transactions other than the step (spec/00_scope.md R42 to R46;
spec/45_display.md R702; spec/70_reset_and_hazards.md R900 to R912). -/

namespace Sys2Proof.Machine

/-- `reset`, at any time, on a halted core too: `Now()` is sampled as the timer reference, and the
parameters and the host's answers to come stay (R42, R900, R901). -/
def State.hostReset (s : State) : State := (State.resetAt s.cfg s.nowAnswer).setHost s.takeNow.host

/-- The number of bytes `load` copies: a trailing odd byte is ignored (R910). -/
def loadLength (bytes : List Byte) : Nat := bytes.length - bytes.length % 2

/-- `load(bytes)`: copy to 0x200 on, or be refused and change nothing when the program does not fit below
the reserved region (R43, R910, R911). -/
def State.load (s : State) (bytes : List Byte) : Except LoadRefused State :=
  if s.cfg.reservedBase < loadAddress + loadLength bytes then .error .tooLong
  else .ok (s.storeBytes loadAddress (bytes.take (loadLength bytes)))

/-- What `peek` answers (R45). -/
inductive PeekAnswer where
  | instr (i : Instr)
  | undefinedWord
  | faulting (k : FaultKind)
deriving DecidableEq, Repr

/-- `peek`: the decoded instruction at `pc`, or undefined, or the fault kind of its fetch; the state does
not change and the machine does not halt (R45, D6). -/
def State.peek (s : State) : PeekAnswer :=
  match s.fetch with
  | .error k => .faulting k
  | .ok w =>
    match decode w with
    | none => .undefinedWord
    | some i => .instr i

/-- What the read ports show while a GKEY is held for a key: "a host read during the wait sees the already
reconciled timers of the held step", and every other piece of state "survives it unchanged" (R663, R863,
R872). `none` where no GKEY is next. A host that never answers leaves the core at this view for ever. -/
def State.heldView (s : State) : Option State :=
  match s.halt, s.fetchInstr with
  | none, .ok (.gkey _) => some s.beginStep
  | _, _ => none

/-- The pixel-read accessor: a request outside the 64 x 32 frame is refused (R702, D26). -/
def State.pixel (s : State) (X Y : Nat) : Option Bool :=
  if onScreen X Y then some (pixelLit s.cfg s.mem X Y) else none

end Sys2Proof.Machine
end

