-- ==== Sys2Proof/Safety.lean ====
section
/-! DEFINITION. The terms the claims use: the invariant, running and terminal states, frames, the
registers each instruction may write, and a sprite as a set of pixels. -/

namespace Sys2Proof.Machine

/-! ## The invariant -/

/-- What every reachable state satisfies: the parameters meet R11, memory is in canonical form, `sp` never
exceeds the capacity (R120), and the stack has its STACK_CAPACITY entries. -/
abbrev State.WellFormed (s : State) : Prop :=
  s.cfg.WellFormed ∧ Memory.wf s.cfg s.mem ∧ s.sp ≤ s.cfg.stackCapacity ∧
  s.stack.length = s.cfg.stackCapacity

/-! ## Frames -/

/-- Every byte of memory reads as before. -/
def State.MemoryKept (s t : State) : Prop := ∀ a, t.byte a = s.byte a

/-- Every byte of memory outside the `n` bytes from `lo` on reads as before. -/
def State.MemoryKeptOutside (lo n : Nat) (s t : State) : Prop :=
  ∀ a, ¬ (lo ≤ a ∧ a < lo + n) → t.byte a = s.byte a

/-- Every general register but the named ones holds what it held. -/
def State.RegsKeptBut (named : List Reg) (s t : State) : Prop := ∀ r, r ∉ named → t.getV r = s.getV r

/-- The timers, their reference and their tick count are as before. -/
structure State.TimersKept (s t : State) : Prop where
  dt : t.dt = s.dt
  st : t.st = s.st
  tRef : t.tRef = s.tRef
  ticks : t.ticks = s.ticks

/-- The call stack and its pointer are as before. -/
structure State.StackKept (s t : State) : Prop where
  sp : t.sp = s.sp
  stack : t.stack = s.stack

/-- The halt record and the parameters are as before. -/
structure State.ControlKept (s t : State) : Prop where
  halt : t.halt = s.halt
  cfg : t.cfg = s.cfg

/-- Stack, timers and control are as before: all but V, I, pc, memory and the host's answers to come. -/
structure State.RestKept (s t : State) : Prop where
  stack : State.StackKept s t
  timers : State.TimersKept s t
  control : State.ControlKept s t

/-- Everything but pc and the host's answers to come is as before. -/
structure State.OnlyPcMoves (s t : State) : Prop where
  regs : State.RegsKeptBut [] s t
  i : t.i = s.i
  memory : State.MemoryKept s t
  rest : State.RestKept s t

/-! ## Running and terminal states -/

/-- A terminal state: running, and the word at `pc` decodes to a jump to itself (R950). -/
def State.Terminal (s : State) : Prop :=
  s.halt = none ∧ ∃ nnn : Addr, s.fetchInstr = .ok (.jmp nnn) ∧ addrWord nnn = s.pc

/-! ## The fields of a word as numbers (R301), and the operands they give (R310, R311, R321) -/

/-- `x`, bits 11..8. -/
def bitsX (w : Word) : Nat := w.toNat / 0x100 % 0x10

/-- `y`, bits 7..4. -/
def bitsY (w : Word) : Nat := w.toNat / 0x10 % 0x10

/-- `n`, bits 3..0. -/
def bitsN (w : Word) : Nat := w.toNat % 0x10

/-- `kk`, bits 7..0. -/
def bitsKk (w : Word) : Nat := w.toNat % 0x100

/-- `nnn`, bits 11..0. -/
def bitsNnn (w : Word) : Nat := w.toNat % 0x1000

/-- The operands of the instruction are the fields of the word that the operands column of R321 names. -/
def OperandsAreFieldsOf (w : Word) : Instr → Prop
  | .cls => True
  | .ret => True
  | .jmp nnn => nnn.toNat = bitsNnn w
  | .call nnn => nnn.toNat = bitsNnn w
  | .skipeq x kk => x.toNat = bitsX w ∧ kk.toNat = bitsKk w
  | .skipneq x kk => x.toNat = bitsX w ∧ kk.toNat = bitsKk w
  | .skipreq x y => x.toNat = bitsX w ∧ y.toNat = bitsY w
  | .mov x kk => x.toNat = bitsX w ∧ kk.toNat = bitsKk w
  | .add x kk => x.toNat = bitsX w ∧ kk.toNat = bitsKk w
  | .movr x y => x.toNat = bitsX w ∧ y.toNat = bitsY w
  | .or x y => x.toNat = bitsX w ∧ y.toNat = bitsY w
  | .and x y => x.toNat = bitsX w ∧ y.toNat = bitsY w
  | .xor x y => x.toNat = bitsX w ∧ y.toNat = bitsY w
  | .addr x y => x.toNat = bitsX w ∧ y.toNat = bitsY w
  | .subr x y => x.toNat = bitsX w ∧ y.toNat = bitsY w
  | .sr x y => x.toNat = bitsX w ∧ y.toNat = bitsY w
  | .rsub x y => x.toNat = bitsX w ∧ y.toNat = bitsY w
  | .sl x y => x.toNat = bitsX w ∧ y.toNat = bitsY w
  | .skiprneq x y => x.toNat = bitsX w ∧ y.toNat = bitsY w
  | .si nnn => nnn.toNat = bitsNnn w
  | .pcn nnn => nnn.toNat = bitsNnn w
  | .rand x kk => x.toNat = bitsX w ∧ kk.toNat = bitsKk w
  | .draw x y n => x.toNat = bitsX w ∧ y.toNat = bitsY w ∧ n.toNat = bitsN w
  | .skipkeq x => x.toNat = bitsX w
  | .skipkneq x => x.toNat = bitsX w
  | .gdelay x => x.toNat = bitsX w
  | .gkey x => x.toNat = bitsX w
  | .sdelay x => x.toNat = bitsX w
  | .ssnd x => x.toNat = bitsX w
  | .addi x => x.toNat = bitsX w
  | .sprite x => x.toNat = bitsX w
  | .bcd x => x.toNat = bitsX w
  | .rdump x => x.toNat = bitsX w
  | .rload x => x.toNat = bitsX w

/-! ## Which registers an instruction may write (R101, R103) -/

/-- The "writes" column of R101's table. -/
def writtenRegs : Instr → List Reg
  | .cls => []
  | .ret => []
  | .jmp _ => []
  | .call _ => []
  | .skipeq _ _ => []
  | .skipneq _ _ => []
  | .skipreq _ _ => []
  | .mov x _ => [x]
  | .add x _ => [x]
  | .movr x _ => [x]
  | .or x _ => [x]
  | .and x _ => [x]
  | .xor x _ => [x]
  | .addr x _ => [x, flagReg]
  | .subr x _ => [x, flagReg]
  | .sr x y => [x, y, flagReg]
  | .rsub x _ => [x, flagReg]
  | .sl x y => [x, y, flagReg]
  | .skiprneq _ _ => []
  | .si _ => []
  | .pcn _ => []
  | .rand x _ => [x]
  | .draw _ _ _ => [flagReg]
  | .skipkeq _ => []
  | .skipkneq _ => []
  | .gdelay x => [x]
  | .gkey x => [x]
  | .sdelay _ => []
  | .ssnd _ => []
  | .addi _ => []
  | .sprite _ => []
  | .bcd _ => []
  | .rdump _ => []
  | .rload x => (List.range (x.toNat + 1)).map (fun k => BitVec.ofNat 4 k)

/-- The six instructions that write a flag result (R103). -/
def writesFlag : Instr → Bool
  | .addr _ _ => true
  | .subr _ _ => true
  | .rsub _ _ => true
  | .sr _ _ => true
  | .sl _ _ => true
  | .draw _ _ _ => true
  | _ => false

/-- The six conditional skips (R440). -/
def isSkip : Instr → Bool
  | .skipeq _ _ => true
  | .skipneq _ _ => true
  | .skipreq _ _ => true
  | .skiprneq _ _ => true
  | .skipkeq _ => true
  | .skipkneq _ => true
  | _ => false

/-- The four instructions that set `pc` explicitly (R111). -/
def setsPc : Instr → Bool
  | .jmp _ => true
  | .call _ => true
  | .ret => true
  | .pcn _ => true
  | _ => false

/-- The memory transfers with the number of bytes each one accesses from I on (R201). -/
def transferBytes : Instr → Nat
  | .draw _ _ n => n.toNat
  | .bcd _ => 3
  | .rdump x => x.toNat + 1
  | .rload x => x.toNat + 1
  | _ => 0

/-- The n bytes from address I on can all be accessed by a program (R220, R590). -/
def State.Accessible (s : State) (n : Nat) : Prop := ∀ k, k < n → progCheck s.cfg (s.i.toNat + k) = none

/-- A transfer of `n` bytes from address I on fails, and `f` is the fault of its first failing access, the
one at the lowest address (R591). -/
def State.FirstFault (s : State) (n : Nat) (f : FaultKind) : Prop :=
  ∃ k, k < n ∧ (∀ j, j < k → progCheck s.cfg (s.i.toNat + j) = none) ∧
    progCheck s.cfg (s.i.toNat + k) = some f

/-! ## A sprite as a set of pixels (R720) -/

/-- The sprite of `n` rows at I, drawn at (px, py), has a 1 bit at position (X, Y). -/
def State.spriteBit (s : State) (px py n X Y : Nat) : Bool :=
  decide (px ≤ X ∧ X < px + 8 ∧ py ≤ Y ∧ Y < py + n) &&
    (s.byte (s.i.toNat + (Y - py))).getLsbD (7 - (X - px))

/-- Pixel (X, Y) of the frame is lit in this state (R700). -/
def State.lit (s : State) (X Y : Nat) : Bool :=
  (s.byte (s.cfg.frameBase + (X / 8 + Y * 8))).getLsbD (X % 8)

end Sys2Proof.Machine
end

