-- ==== Sys2Proof/Certificates/Slice0/Obligations.lean ====
section
/-! DEFINITION. The statements for the provers. -/

open Sys2Proof Sys2Proof.Machine

/-! ## Encoding -/

/-- R341. -/
def Obligations.DecodeAndEncodeAreInverse : Prop :=
  (∀ i : Instr, decode (encode i) = some i) ∧ (∀ (w : Word) (i : Instr), decode w = some i → encode i = w)

/-- R321, its match and mask columns: a word decodes to an instruction of a row's mnemonic exactly when it
selects that row, and no two rows match the same word. The operands column is
`DecodedOperandsAreTheFieldsOfTheWord`. -/
def Obligations.WordsSelectOneTableRow : Prop :=
  (∀ (w : Word) (r : OpcodeRow), r ∈ opcodeTable →
    (r.selectedBy w = true ↔ ∃ i, decode w = some i ∧ i.mnemonic = r.mnemonic)) ∧
  (∀ (w : Word) (r q : OpcodeRow), r ∈ opcodeTable → q ∈ opcodeTable →
    r.selectedBy w = true → q.selectedBy w = true → r = q) ∧
  (∀ w : Word, (∀ r ∈ opcodeTable, r.selectedBy w = false) → decode w = none) ∧
  opcodeTable.length = 34

/-- R301, R310, R311 and the operands column of R321: the operands of a decoded instruction are the fields of
its word, each at its own place, and the decoder's field functions read those places. -/
def Obligations.DecodedOperandsAreTheFieldsOfTheWord : Prop :=
  (∀ (w : Word) (i : Instr), decode w = some i → OperandsAreFieldsOf w i) ∧
  (∀ w : Word, (fieldX w).toNat = bitsX w ∧ (fieldY w).toNat = bitsY w ∧ (fieldN w).toNat = bitsN w ∧
    (fieldKk w).toNat = bitsKk w ∧ (fieldNnn w).toNat = bitsNnn w)

/-- The undefined words, family by family, as the list of R330 gives them. -/
def Obligations.UndefinedWordsByFamily : Prop :=
  ∀ w : Word, decode w = none ↔
    ((w.toNat < 0x1000 ∧ w ≠ 0x00E0 ∧ w ≠ 0x00EE) ∨
     (w.toNat / 0x1000 = 0x5 ∧ w.toNat % 16 ≠ 0) ∨
     (w.toNat / 0x1000 = 0x8 ∧ (w.toNat % 16 = 0xF ∨ (8 ≤ w.toNat % 16 ∧ w.toNat % 16 ≤ 0xD))) ∨
     (w.toNat / 0x1000 = 0x9 ∧ w.toNat % 16 ≠ 0) ∨
     (w.toNat / 0x1000 = 0xE ∧ w.toNat % 256 ∉ [0x9E, 0xA1]) ∨
     (w.toNat / 0x1000 = 0xF ∧
       w.toNat % 256 ∉ [0x07, 0x0A, 0x15, 0x18, 0x1E, 0x29, 0x33, 0x55, 0x65]))

/-- Words written out from R321's table and the examples of R351 and L2.1, one for each instruction; where an
instruction has an x and a y field the two differ. -/
def Obligations.WrittenWordsDecode : Prop :=
  (decode 0x00E0 = some .cls ∧ decode 0x00EE = some .ret ∧ decode 0x1FFF = some (.jmp 0xFFF) ∧
    decode 0x2300 = some (.call 0x300) ∧ decode 0x3105 = some (.skipeq 1 0x05) ∧
    decode 0x4105 = some (.skipneq 1 0x05) ∧ decode 0x5AB0 = some (.skipreq 0xA 0xB) ∧
    decode 0x60FF = some (.mov 0 0xFF) ∧ decode 0x7A01 = some (.add 0xA 0x01)) ∧
  (decode 0x8120 = some (.movr 1 2) ∧ decode 0x8121 = some (.or 1 2) ∧ decode 0x8122 = some (.and 1 2) ∧
    decode 0x8123 = some (.xor 1 2) ∧ decode 0x8FE4 = some (.addr 0xF 0xE) ∧
    decode 0x8125 = some (.subr 1 2) ∧ decode 0x8126 = some (.sr 1 2) ∧ decode 0x8127 = some (.rsub 1 2) ∧
    decode 0x812E = some (.sl 1 2)) ∧
  (decode 0x9340 = some (.skiprneq 3 4) ∧ decode 0xA050 = some (.si 0x050) ∧
    decode 0xB300 = some (.pcn 0x300) ∧ decode 0xC20F = some (.rand 2 0x0F) ∧
    decode 0xD01F = some (.draw 0 1 0xF) ∧ decode 0xE39E = some (.skipkeq 3) ∧
    decode 0xE3A1 = some (.skipkneq 3)) ∧
  (decode 0xF307 = some (.gdelay 3) ∧ decode 0xF30A = some (.gkey 3) ∧ decode 0xF315 = some (.sdelay 3) ∧
    decode 0xF318 = some (.ssnd 3) ∧ decode 0xFA1E = some (.addi 0xA) ∧ decode 0xF329 = some (.sprite 3) ∧
    decode 0xF333 = some (.bcd 3) ∧ decode 0xF355 = some (.rdump 3) ∧ decode 0xF365 = some (.rload 3))

/-! ## Reset, load and the host's ports -/

/-- R150, R231, R840, for every choice of the parameters and every clock reading. -/
def Obligations.ResetLeavesTheTableOfValues : Prop :=
  ∀ (c : Config) (now : Nat), c.WellFormed →
    (∀ x, (State.resetAt c now).getV x = 0) ∧
    (State.resetAt c now).i = 0 ∧
    (State.resetAt c now).pc = 0x200 ∧
    (State.resetAt c now).sp = 0 ∧
    (State.resetAt c now).stack = List.replicate c.stackCapacity 0 ∧
    (State.resetAt c now).dt = 0 ∧
    (State.resetAt c now).st = 0 ∧
    (∀ a, a < 0x1000 → ¬ (c.fontBase ≤ a ∧ a < c.fontBase + 80) → (State.resetAt c now).byte a = 0) ∧
    (∀ k, k < 80 → (State.resetAt c now).byte (c.fontBase + k) = c.fontData.getD k 0) ∧
    (∀ k, k < 256 → (State.resetAt c now).byte (c.frameBase + k) = 0) ∧
    (State.resetAt c now).tRef = now ∧
    (State.resetAt c now).ticks = 0 ∧
    (State.resetAt c now).halt = none

/-- R901: two resets with the same parameters and the same `Now()` leave the same values everywhere but in
the host's answers to come, from any two states, halted ones too. -/
def Obligations.ResetIsDeterministic : Prop :=
  ∀ s s' : State, s.cfg = s'.cfg → s.nowAnswer = s'.nowAnswer →
    s.hostReset.halt = none ∧
    s.hostReset.tRef = s.nowAnswer ∧
    s'.hostReset.setHost s.hostReset.host = s.hostReset

/-- The invariant holds after every reset. -/
def Obligations.ResetStateIsWellFormed : Prop :=
  (∀ (c : Config) (now : Nat), c.WellFormed → (State.resetAt c now).WellFormed) ∧ State.reset.WellFormed

/-- Every step keeps the invariant. -/
def Obligations.StepKeepsStateWellFormed : Prop :=
  ∀ s t : State, s.WellFormed → step s = .next t → t.WellFormed

/-- R910, R911. -/
def Obligations.LoadCopiesOrRefuses : Prop :=
  ∀ (s : State) (bytes : List Byte), s.WellFormed →
    (s.cfg.reservedBase < 0x200 + (bytes.length - bytes.length % 2) →
      s.load bytes = .error .tooLong) ∧
    (0x200 + (bytes.length - bytes.length % 2) ≤ s.cfg.reservedBase →
      ∃ t, s.load bytes = .ok t ∧
        (∀ k, k < bytes.length - bytes.length % 2 → t.byte (0x200 + k) = bytes.getD k 0) ∧
        State.MemoryKeptOutside 0x200 (bytes.length - bytes.length % 2) s t ∧
        State.RegsKeptBut [] s t ∧ t.i = s.i ∧ t.pc = s.pc ∧ State.RestKept s t ∧ t.host = s.host ∧
        t.WellFormed)

/-- R45: what `peek` answers is what the next step does. -/
def Obligations.PeekForetellsTheStep : Prop :=
  ∀ s : State, s.halt = none →
    (∀ i, s.peek = .instr i → step s = exec i s.beginStep) ∧
    (s.peek = .undefinedWord → ∃ w, s.fetch = .ok w ∧
      step s = .next (s.beginStep.setHalt (some ⟨.undefinedInstruction w, s.pc⟩))) ∧
    (∀ k, s.peek = .faulting k → step s = .next (s.beginStep.setHalt (some ⟨k, s.pc⟩)))

/-- R702: the pixel port reads bit X % 8 of byte FB[X / 8 + Y * 8], and refuses a request outside the
frame. -/
def Obligations.PixelPortReadsTheFrame : Prop :=
  ∀ (s : State) (X Y : Nat),
    (X < 64 → Y < 32 → s.pixel X Y = some (s.lit X Y)) ∧
    (64 ≤ X ∨ 32 ≤ Y → s.pixel X Y = none)

/-! ## The step -/

/-- R400: the three phases. -/
def Obligations.StepRunsTheDecodedInstruction : Prop :=
  ∀ s : State,
    s.beginStep = s.takeNow.reconcile s.nowAnswer ∧
    (∀ w i, s.halt = none → s.fetch = .ok w → decode w = some i → step s = exec i s.beginStep) ∧
    (∀ w, s.halt = none → s.fetch = .ok w → decode w = none →
      step s = .next (s.beginStep.setHalt (some ⟨.undefinedInstruction w, s.pc⟩))) ∧
    (∀ k, s.halt = none → s.fetch = .error k → step s = .next (s.beginStep.setHalt (some ⟨k, s.pc⟩)))

/-- R823; that the refused step is the outcome `fault (halted r)` is the model's form
(notes/assumptions/6.md). -/
def Obligations.HaltedCoreTakesNoStep : Prop :=
  ∀ (s : State) (r : FaultRecord), s.halt = some r →
    step s = .fault (.halted r) ∧ s.hostReset.halt = none ∧
    ∀ t, step s ≠ .next t

/-- A running core always answers a next state: no instruction, no data and no address makes the model
stop or refuse. Two of the model's choices stand behind it: a GKEY step is one transition that the host's
key ends, where R663 and R863 say that the core is held until then, possibly for ever
(notes/assumptions/5.md), and a faulting step is a next state with `halt` set (notes/assumptions/6.md). -/
def Obligations.RunningCoreAlwaysSteps : Prop :=
  ∀ s : State, s.halt = none → ∃ t, step s = .next t

/-- R821: after a faulting step the state is the one before it with the reconciliation applied, and the
record's pc is the faulting instruction's. -/
def Obligations.FaultsArePrecise : Prop :=
  ∀ (s t : State) (r : FaultRecord), s.halt = none → step s = .next t → t.halt = some r →
    t = s.beginStep.setHalt (some r) ∧ r.pc = s.pc ∧ t.pc = s.pc

/-- R221, R210: the fetch. At 0xFFF the reserved region is checked before 0x1000 is reached, as R810's order
and vector L2.2.10 have it (notes/assumptions/9.md). -/
def Obligations.FetchChecksBothBytes : Prop :=
  ∀ s : State, s.cfg.WellFormed →
    (s.pc.toNat + 1 < s.cfg.reservedBase →
      ∃ w, s.fetch = .ok w ∧
        w.toNat = 256 * (s.byte s.pc.toNat).toNat + (s.byte (s.pc.toNat + 1)).toNat) ∧
    (0x1000 ≤ s.pc.toNat → s.fetch = .error (.addressFault s.pc.toNat)) ∧
    (s.cfg.reservedBase ≤ s.pc.toNat → s.pc.toNat < 0x1000 →
      s.fetch = .error (.reservedAccess s.pc.toNat)) ∧
    (s.pc.toNat + 1 = s.cfg.reservedBase → s.fetch = .error (.reservedAccess (s.pc.toNat + 1)))

/-- R250: a byte stored is seen by the next fetch that covers it, with nothing between. -/
def Obligations.StoresAreSeenByTheNextFetch : Prop :=
  ∀ (s t : State) (b : Byte) (w : Word), s.WellFormed →
    (s.memWrite s.pc.toNat b = .ok t → t.fetch = .ok w → highByte w = b) ∧
    (s.memWrite (s.pc.toNat + 1) b = .ok t → t.fetch = .ok w → lowByte w = b)

/-- Only what R800 lists raises a fault, with the information R800 says (R807). -/
def Obligations.FaultsOnlyAsListed : Prop :=
  ∀ (i : Instr) (s t : State) (r : FaultRecord), s.halt = none → exec i s = .next t → t.halt = some r →
    ((∃ nnn, i = .call nnn) ∧ s.sp = s.cfg.stackCapacity ∧ r.kind = .stackOverflow) ∨
    (i = .ret ∧ s.sp = 0 ∧ r.kind = .stackUnderflow) ∨
    (∃ x, i = .sprite x ∧ 0xF < (s.getV x).toNat ∧ r.kind = .spriteDigitRange (s.getV x)) ∨
    (∃ k, k < transferBytes i ∧ progCheck s.cfg (s.i.toNat + k) = some r.kind)

/-! ## Timers -/

/-- R841 to R844. -/
def Obligations.ReconcileAppliesTheTicksOwed : Prop :=
  ∀ (s : State) (now e : Nat), e = (if s.tRef ≤ now then (now - s.tRef) * 60 / 1000 else 0) →
    (s.reconcile now).dt.toNat = s.dt.toNat - min s.dt.toNat (e - s.ticks) ∧
    (s.reconcile now).st.toNat = s.st.toNat - min s.st.toNat (e - s.ticks) ∧
    (s.reconcile now).ticks = max s.ticks e ∧
    (s.reconcile now).tRef = s.tRef ∧
    (s.reconcile now).pc = s.pc ∧ State.RegsKeptBut [] s (s.reconcile now) ∧
    (s.reconcile now).i = s.i ∧ State.MemoryKept s (s.reconcile now) ∧
    State.StackKept s (s.reconcile now) ∧ State.ControlKept s (s.reconcile now) ∧
    (s.reconcile now).host = s.host

/-- The countdown does not depend on how often the core is stepped: reconciling at every one of a rising
sequence of readings leaves what one reconciliation at the last leaves (R845). -/
def Obligations.CountdownIndependentOfStepRate : Prop :=
  ∀ (s : State) (readings : List Nat) (last : Nat), (readings ++ [last]).Pairwise (· ≤ ·) →
    (readings.foldl State.reconcile s).reconcile last = s.reconcile last

/-! ## Control transfer -/

/-- R410. -/
def Obligations.JmpSetsThePc : Prop :=
  ∀ (nnn : Addr) (s : State), ∃ t, exec (.jmp nnn) s = .next t ∧
    t.pc.toNat = nnn.toNat ∧ State.OnlyPcMoves s t ∧ t.host = s.host

/-- R411. -/
def Obligations.CallPushesTheReturnAddress : Prop :=
  ∀ (nnn : Addr) (s : State), s.WellFormed →
    (s.sp = s.cfg.stackCapacity →
      exec (.call nnn) s = .next (s.setHalt (some ⟨.stackOverflow, s.pc⟩))) ∧
    (s.sp ≠ s.cfg.stackCapacity → ∃ t, exec (.call nnn) s = .next t ∧
      t.pc.toNat = nnn.toNat ∧ t.sp = s.sp + 1 ∧ t.stack[s.sp]? = some (s.pc + 2) ∧
      (∀ k, k ≠ s.sp → t.stack[k]? = s.stack[k]?) ∧
      State.RegsKeptBut [] s t ∧ t.i = s.i ∧ State.MemoryKept s t ∧ State.TimersKept s t ∧
      State.ControlKept s t ∧ t.host = s.host)

/-- R412. -/
def Obligations.RetPopsIntoThePc : Prop :=
  ∀ s : State, s.WellFormed →
    (s.sp = 0 → exec .ret s = .next (s.setHalt (some ⟨.stackUnderflow, s.pc⟩))) ∧
    (s.sp ≠ 0 → ∃ t, exec .ret s = .next t ∧
      some t.pc = s.stack[s.sp - 1]? ∧ t.sp = s.sp - 1 ∧ t.stack = s.stack ∧
      State.RegsKeptBut [] s t ∧ t.i = s.i ∧ State.MemoryKept s t ∧ State.TimersKept s t ∧
      State.ControlKept s t ∧ t.host = s.host)

/-- R413. -/
def Obligations.PcnJumpsPastNnnByV0 : Prop :=
  ∀ (nnn : Addr) (s : State), ∃ t, exec (.pcn nnn) s = .next t ∧
    t.pc.toNat = nnn.toNat + (s.getV 0).toNat ∧ State.OnlyPcMoves s t ∧ t.host = s.host

/-- A CALL and the RET that matches it: the RET runs in any state whose call stack is as the CALL left it
(C3, vector L1.7 as corrected). -/
def Obligations.RetReturnsAfterItsCall : Prop :=
  ∀ (nnn : Addr) (s t u : State), s.WellFormed → s.sp ≠ s.cfg.stackCapacity →
    exec (.call nnn) s = .next t → State.StackKept t u →
    ∃ v, exec .ret u = .next v ∧ v.pc = s.pc + 2 ∧ v.sp = s.sp

/-! ## Skips -/

/-- R450 to R453. -/
def Obligations.RegisterSkipsMoveByFourOrTwo : Prop :=
  ∀ (x y : Reg) (kk : Byte) (s : State),
    (∃ t, exec (.skipeq x kk) s = .next t ∧
      t.pc = (if s.getV x = kk then s.pc + 4 else s.pc + 2) ∧ State.OnlyPcMoves s t ∧ t.host = s.host) ∧
    (∃ t, exec (.skipneq x kk) s = .next t ∧
      t.pc = (if s.getV x ≠ kk then s.pc + 4 else s.pc + 2) ∧ State.OnlyPcMoves s t ∧ t.host = s.host) ∧
    (∃ t, exec (.skipreq x y) s = .next t ∧
      t.pc = (if s.getV x = s.getV y then s.pc + 4 else s.pc + 2) ∧ State.OnlyPcMoves s t ∧
      t.host = s.host) ∧
    (∃ t, exec (.skiprneq x y) s = .next t ∧
      t.pc = (if s.getV x ≠ s.getV y then s.pc + 4 else s.pc + 2) ∧ State.OnlyPcMoves s t ∧
      t.host = s.host)

/-- R454, R455; that the answer is drawn from the host's answers to come is the model's form of the input
(notes/assumptions/3.md). -/
def Obligations.KeySkipsCompareTheHostsAnswer : Prop :=
  ∀ (x : Reg) (s : State),
    (∃ t, exec (.skipkeq x) s = .next t ∧
      t.pc = (if s.getV x = s.keyAnswer then s.pc + 4 else s.pc + 2) ∧ State.OnlyPcMoves s t ∧
      t.host = s.takeKey.host) ∧
    (∃ t, exec (.skipkneq x) s = .next t ∧
      t.pc = (if s.getV x ≠ s.keyAnswer then s.pc + 4 else s.pc + 2) ∧ State.OnlyPcMoves s t ∧
      t.host = s.takeKey.host)

/-! ## ALU -/

/-- R500, R501, R510. -/
def Obligations.MovesAndAddImmediate : Prop :=
  ∀ (x y : Reg) (kk : Byte) (s : State),
    (∃ t, exec (.mov x kk) s = .next t ∧ t.getV x = kk ∧
      State.RegsKeptBut [x] s t ∧ t.pc = s.pc + 2 ∧ t.i = s.i ∧ State.MemoryKept s t ∧
      State.RestKept s t ∧ t.host = s.host) ∧
    (∃ t, exec (.add x kk) s = .next t ∧ (t.getV x).toNat = ((s.getV x).toNat + kk.toNat) % 256 ∧
      State.RegsKeptBut [x] s t ∧ t.pc = s.pc + 2 ∧ t.i = s.i ∧ State.MemoryKept s t ∧
      State.RestKept s t ∧ t.host = s.host) ∧
    (∃ t, exec (.movr x y) s = .next t ∧ t.getV x = s.getV y ∧
      State.RegsKeptBut [x] s t ∧ t.pc = s.pc + 2 ∧ t.i = s.i ∧ State.MemoryKept s t ∧
      State.RestKept s t ∧ t.host = s.host)

/-- R511 to R513, bit by bit; VF is written only as the named destination. -/
def Obligations.BitwiseOperationsLeaveVF : Prop :=
  ∀ (x y : Reg) (s : State),
    (∃ t, exec (.or x y) s = .next t ∧
      (∀ j, (t.getV x).getLsbD j = ((s.getV x).getLsbD j || (s.getV y).getLsbD j)) ∧
      State.RegsKeptBut [x] s t ∧ t.pc = s.pc + 2 ∧ t.i = s.i ∧ State.MemoryKept s t ∧
      State.RestKept s t ∧ t.host = s.host) ∧
    (∃ t, exec (.and x y) s = .next t ∧
      (∀ j, (t.getV x).getLsbD j = ((s.getV x).getLsbD j && (s.getV y).getLsbD j)) ∧
      State.RegsKeptBut [x] s t ∧ t.pc = s.pc + 2 ∧ t.i = s.i ∧ State.MemoryKept s t ∧
      State.RestKept s t ∧ t.host = s.host) ∧
    (∃ t, exec (.xor x y) s = .next t ∧
      (∀ j, (t.getV x).getLsbD j = ((s.getV x).getLsbD j ^^ (s.getV y).getLsbD j)) ∧
      State.RegsKeptBut [x] s t ∧ t.pc = s.pc + 2 ∧ t.i = s.i ∧ State.MemoryKept s t ∧
      State.RestKept s t ∧ t.host = s.host)

/-- R514. -/
def Obligations.AddrSetsTheCarry : Prop :=
  ∀ (x y : Reg) (s : State), ∃ t, exec (.addr x y) s = .next t ∧
    (x ≠ 0xF → (t.getV x).toNat = ((s.getV x).toNat + (s.getV y).toNat) % 256) ∧
    t.getV 0xF = (if 256 ≤ (s.getV x).toNat + (s.getV y).toNat then 1 else 0) ∧
    State.RegsKeptBut [x, 0xF] s t ∧ t.pc = s.pc + 2 ∧ t.i = s.i ∧ State.MemoryKept s t ∧
    State.RestKept s t ∧ t.host = s.host

/-- R515, R517. -/
def Obligations.SubtractionsSetNotBorrow : Prop :=
  ∀ (x y : Reg) (s : State),
    (∃ t, exec (.subr x y) s = .next t ∧
      (x ≠ 0xF → (t.getV x).toNat = ((s.getV x).toNat + 256 - (s.getV y).toNat) % 256) ∧
      t.getV 0xF = (if (s.getV y).toNat ≤ (s.getV x).toNat then 1 else 0) ∧
      State.RegsKeptBut [x, 0xF] s t ∧ t.pc = s.pc + 2 ∧ t.i = s.i ∧ State.MemoryKept s t ∧
      State.RestKept s t ∧ t.host = s.host) ∧
    (∃ t, exec (.rsub x y) s = .next t ∧
      (x ≠ 0xF → (t.getV x).toNat = ((s.getV y).toNat + 256 - (s.getV x).toNat) % 256) ∧
      t.getV 0xF = (if (s.getV x).toNat ≤ (s.getV y).toNat then 1 else 0) ∧
      State.RegsKeptBut [x, 0xF] s t ∧ t.pc = s.pc + 2 ∧ t.i = s.i ∧ State.MemoryKept s t ∧
      State.RestKept s t ∧ t.host = s.host)

/-- R516, R518. -/
def Obligations.ShiftsWriteVyVxAndTheBitShiftedOut : Prop :=
  ∀ (x y : Reg) (s : State),
    (∃ t, exec (.sr x y) s = .next t ∧
      (x ≠ 0xF → (t.getV x).toNat = (s.getV y).toNat / 2) ∧
      (y ≠ 0xF → (t.getV y).toNat = (s.getV y).toNat / 2) ∧
      (t.getV 0xF).toNat = (s.getV y).toNat % 2 ∧
      State.RegsKeptBut [x, y, 0xF] s t ∧ t.pc = s.pc + 2 ∧ t.i = s.i ∧ State.MemoryKept s t ∧
      State.RestKept s t ∧ t.host = s.host) ∧
    (∃ t, exec (.sl x y) s = .next t ∧
      (x ≠ 0xF → (t.getV x).toNat = 2 * (s.getV y).toNat % 256) ∧
      (y ≠ 0xF → (t.getV y).toNat = 2 * (s.getV y).toNat % 256) ∧
      (t.getV 0xF).toNat = (s.getV y).toNat / 128 ∧
      State.RegsKeptBut [x, y, 0xF] s t ∧ t.pc = s.pc + 2 ∧ t.i = s.i ∧ State.MemoryKept s t ∧
      State.RestKept s t ∧ t.host = s.host)

/-- R520: whatever byte the host draws. -/
def Obligations.RandMasksTheHostsByte : Prop :=
  ∀ (x : Reg) (kk : Byte) (s : State), ∃ t, exec (.rand x kk) s = .next t ∧
    (∀ j, (t.getV x).getLsbD j = (s.randAnswer.getLsbD j && kk.getLsbD j)) ∧
    State.RegsKeptBut [x] s t ∧ t.pc = s.pc + 2 ∧ t.i = s.i ∧ State.MemoryKept s t ∧
    State.RestKept s t ∧ t.host = s.takeRand.host

/-! ## Index register and memory -/

/-- R600, R605. -/
def Obligations.IndexIsSetAndAdvanced : Prop :=
  ∀ (nnn : Addr) (x : Reg) (s : State),
    (∃ t, exec (.si nnn) s = .next t ∧ t.i.toNat = nnn.toNat ∧
      State.RegsKeptBut [] s t ∧ t.pc = s.pc + 2 ∧ State.MemoryKept s t ∧ State.RestKept s t ∧
      t.host = s.host) ∧
    (∃ t, exec (.addi x) s = .next t ∧ t.i.toNat = (s.i.toNat + (s.getV x).toNat) % 0x10000 ∧
      State.RegsKeptBut [] s t ∧ t.pc = s.pc + 2 ∧ State.MemoryKept s t ∧ State.RestKept s t ∧
      t.host = s.host)

/-- R610. -/
def Obligations.SpritePointsAtTheGlyph : Prop :=
  ∀ (x : Reg) (s : State), s.cfg.WellFormed →
    ((s.getV x).toNat ≤ 0xF → ∃ t, exec (.sprite x) s = .next t ∧
      t.i.toNat = s.cfg.fontBase + 5 * (s.getV x).toNat ∧
      State.RegsKeptBut [] s t ∧ t.pc = s.pc + 2 ∧ State.MemoryKept s t ∧ State.RestKept s t ∧
      t.host = s.host) ∧
    (0xF < (s.getV x).toNat →
      exec (.sprite x) s = .next (s.setHalt (some ⟨.spriteDigitRange (s.getV x), s.pc⟩)))

/-- R620: the effect, and the fault with nothing written. -/
def Obligations.BcdStoresThreeDigits : Prop :=
  ∀ (x : Reg) (s : State), s.WellFormed →
    (s.Accessible 3 → ∃ t, exec (.bcd x) s = .next t ∧
      (t.byte s.i.toNat).toNat = (s.getV x).toNat / 100 ∧
      (t.byte (s.i.toNat + 1)).toNat = (s.getV x).toNat / 10 % 10 ∧
      (t.byte (s.i.toNat + 2)).toNat = (s.getV x).toNat % 10 ∧
      State.MemoryKeptOutside s.i.toNat 3 s t ∧
      State.RegsKeptBut [] s t ∧ t.pc = s.pc + 2 ∧ t.i = s.i ∧ State.RestKept s t ∧ t.host = s.host) ∧
    (∀ f, s.FirstFault 3 f → exec (.bcd x) s = .next (s.setHalt (some ⟨f, s.pc⟩)))

/-- R630: the effect, and the fault with nothing written. -/
def Obligations.RdumpStoresV0ToVx : Prop :=
  ∀ (x : Reg) (s : State), s.WellFormed →
    (s.Accessible (x.toNat + 1) → ∃ t, exec (.rdump x) s = .next t ∧
      (∀ k : Reg, k.toNat ≤ x.toNat → t.byte (s.i.toNat + k.toNat) = s.getV k) ∧
      State.MemoryKeptOutside s.i.toNat (x.toNat + 1) s t ∧
      t.i.toNat = (s.i.toNat + x.toNat + 1) % 0x10000 ∧
      State.RegsKeptBut [] s t ∧ t.pc = s.pc + 2 ∧ State.RestKept s t ∧ t.host = s.host) ∧
    (∀ f, s.FirstFault (x.toNat + 1) f → exec (.rdump x) s = .next (s.setHalt (some ⟨f, s.pc⟩)))

/-- R640: the effect, and the fault with no register written. -/
def Obligations.RloadLoadsV0ToVx : Prop :=
  ∀ (x : Reg) (s : State),
    (s.Accessible (x.toNat + 1) → ∃ t, exec (.rload x) s = .next t ∧
      (∀ k : Reg, k.toNat ≤ x.toNat → t.getV k = s.byte (s.i.toNat + k.toNat)) ∧
      (∀ k : Reg, x.toNat < k.toNat → t.getV k = s.getV k) ∧
      t.i.toNat = (s.i.toNat + x.toNat + 1) % 0x10000 ∧
      State.MemoryKept s t ∧ t.pc = s.pc + 2 ∧ State.RestKept s t ∧ t.host = s.host) ∧
    (∀ f, s.FirstFault (x.toNat + 1) f → exec (.rload x) s = .next (s.setHalt (some ⟨f, s.pc⟩)))

/-- R591, R810: a transfer completes, or takes the fault of its failing access at the lowest address and
leaves everything else as it was. -/
def Obligations.TransfersFaultAtTheLowestAddress : Prop :=
  ∀ (i : Instr) (s : State), 0 < transferBytes i →
    (∀ (k : Nat) (f : FaultKind), k < transferBytes i →
      (∀ j, j < k → progCheck s.cfg (s.i.toNat + j) = none) →
      progCheck s.cfg (s.i.toNat + k) = some f →
      exec i s = .next (s.setHalt (some ⟨f, s.pc⟩))) ∧
    (s.halt = none → (s.Accessible (transferBytes i) ↔ ∃ t, exec i s = .next t ∧ t.halt = none))

/-- R220, and that a read returns the last byte written (R240). -/
def Obligations.ProgramAccessesAreChecked : Prop :=
  ∀ (s : State) (a : Nat) (b : Byte), s.WellFormed →
    (0x1000 ≤ a → s.memRead a = .error (.addressFault a) ∧ s.memWrite a b = .error (.addressFault a)) ∧
    (s.cfg.reservedBase ≤ a → a < 0x1000 →
      s.memRead a = .error (.reservedAccess a) ∧ s.memWrite a b = .error (.reservedAccess a)) ∧
    (a < s.cfg.reservedBase → s.memRead a = .ok (s.byte a) ∧
      ∃ t, s.memWrite a b = .ok t ∧ t.memRead a = .ok b ∧ (∀ c, c ≠ a → t.byte c = s.byte c) ∧
        State.RegsKeptBut [] s t ∧ t.i = s.i ∧ t.pc = s.pc ∧ State.RestKept s t ∧ t.host = s.host)

/-! ## Timer and key instructions -/

/-- R650, R655, R658. -/
def Obligations.TimerInstructionsMoveOneByte : Prop :=
  ∀ (x : Reg) (s : State),
    (∃ t, exec (.gdelay x) s = .next t ∧ t.getV x = s.dt ∧
      State.RegsKeptBut [x] s t ∧ t.pc = s.pc + 2 ∧ t.i = s.i ∧ State.MemoryKept s t ∧
      State.RestKept s t ∧ t.host = s.host) ∧
    (∃ t, exec (.sdelay x) s = .next t ∧ t.dt = s.getV x ∧ t.st = s.st ∧ t.tRef = s.tRef ∧
      t.ticks = s.ticks ∧ State.RegsKeptBut [] s t ∧ t.pc = s.pc + 2 ∧ t.i = s.i ∧
      State.MemoryKept s t ∧ State.StackKept s t ∧ State.ControlKept s t ∧ t.host = s.host) ∧
    (∃ t, exec (.ssnd x) s = .next t ∧ t.st = s.getV x ∧ t.dt = s.dt ∧ t.tRef = s.tRef ∧
      t.ticks = s.ticks ∧ State.RegsKeptBut [] s t ∧ t.pc = s.pc + 2 ∧ t.i = s.i ∧
      State.MemoryKept s t ∧ State.StackKept s t ∧ State.ControlKept s t ∧ t.host = s.host)

/-- R663, R863: GKEY stores the first answer in 0x0..0xF, and the answers before it are ignored. That the
whole step, its wait included, is one transition whose key comes from the host's answers to come is the
model's form of the hold, which R663 and D14 allow (notes/assumptions/3.md, notes/assumptions/5.md). -/
def Obligations.GkeyStoresTheKeyThatEndsTheWait : Prop :=
  ∀ (x : Reg) (s : State),
    (∃ t, exec (.gkey x) s = .next t ∧ t.getV x = s.awaitedKey ∧ (t.getV x).toNat ≤ 0xF ∧
      State.RegsKeptBut [x] s t ∧ t.pc = s.pc + 2 ∧ t.i = s.i ∧ State.MemoryKept s t ∧
      State.RestKept s t ∧ t.host = s.takeAwaitedKey.host) ∧
    (∀ (ignored rest : List Byte) (k : Byte), s.host.keys = ignored ++ k :: rest →
      (∀ b ∈ ignored, 0xF < b.toNat) → k.toNat ≤ 0xF →
      s.awaitedKey = k ∧ s.takeAwaitedKey.host = { s.host with keys := rest })

/-- The hold of a GKEY (R663, R863, R872): during it the host sees the state phase 1 left, and nothing else
has changed; the step that ends it reads no clock again and leaves the timers as they were held; and the
next reconciliation applies every tick of the wait. That no model step stands for the wait itself is the
model's form (notes/assumptions/5.md). -/
def Obligations.HeldGkeyKeepsTheReconciledState : Prop :=
  ∀ s : State,
    (∀ x, s.halt = none → s.fetchInstr = .ok (.gkey x) → ∃ v t,
      s.heldView = some v ∧ v = s.takeNow.reconcile s.nowAnswer ∧ v.pc = s.pc ∧
      State.RegsKeptBut [] s v ∧ v.i = s.i ∧ State.MemoryKept s v ∧ State.StackKept s v ∧
      State.ControlKept s v ∧
      step s = .next t ∧ State.TimersKept v t ∧ t.host.clock = v.host.clock ∧
      (∀ later, s.nowAnswer ≤ later →
        (t.reconcile later).dt = (s.reconcile later).dt ∧ (t.reconcile later).st = (s.reconcile later).st ∧
        (t.reconcile later).ticks = (s.reconcile later).ticks)) ∧
    (∀ r, s.halt = some r → s.heldView = none) ∧
    (∀ i, s.fetchInstr = .ok i → (∀ x, i ≠ .gkey x) → s.heldView = none) ∧
    (∀ k, s.fetchInstr = .error k → s.heldView = none)

/-! ## Display -/

/-- R710. -/
def Obligations.ClsTurnsEveryPixelOff : Prop :=
  ∀ s : State, s.WellFormed → ∃ t, exec .cls s = .next t ∧
    (∀ k, k < 256 → t.byte (s.cfg.frameBase + k) = 0) ∧
    (∀ X Y, X < 64 → Y < 32 → t.pixel X Y = some false) ∧
    State.MemoryKeptOutside s.cfg.frameBase 256 s t ∧
    State.RegsKeptBut [] s t ∧ t.pc = s.pc + 2 ∧ t.i = s.i ∧ State.RestKept s t ∧ t.host = s.host

/-- R720: pixel by pixel, and the fault with nothing drawn. -/
def Obligations.DrawXorsTheSpriteIntoTheFrame : Prop :=
  ∀ (x y : Reg) (n : Nibble) (s : State) (px py : Nat), s.WellFormed →
    px = (s.getV x).toNat → py = (s.getV y).toNat →
    (s.Accessible n.toNat → ∃ t, exec (.draw x y n) s = .next t ∧
      (∀ X Y, X < 64 → Y < 32 →
        t.pixel X Y = some (s.lit X Y ^^ s.spriteBit px py n.toNat X Y)) ∧
      (t.getV 0xF = 0 ∨ t.getV 0xF = 1) ∧
      (t.getV 0xF = 1 ↔ ∃ X Y, X < 64 ∧ Y < 32 ∧ s.lit X Y = true ∧
        s.spriteBit px py n.toNat X Y = true) ∧
      State.MemoryKeptOutside s.cfg.frameBase 256 s t ∧
      State.RegsKeptBut [0xF] s t ∧ t.pc = s.pc + 2 ∧ t.i = s.i ∧ State.RestKept s t ∧ t.host = s.host) ∧
    (∀ f, s.FirstFault n.toNat f → exec (.draw x y n) s = .next (s.setHalt (some ⟨f, s.pc⟩)))

/-- Drawing the same sprite twice at the same place leaves every byte of memory as it was, and the second
draw collides exactly when the sprite has a visible pixel that was off (vector L1.9, program L3.3). -/
def Obligations.DrawingTwiceRestoresTheFrame : Prop :=
  ∀ (x y : Reg) (n : Nibble) (s t : State) (px py : Nat), s.WellFormed → s.Accessible n.toNat →
    x ≠ 0xF → y ≠ 0xF → px = (s.getV x).toNat → py = (s.getV y).toNat →
    exec (.draw x y n) s = .next t →
    ∃ u, exec (.draw x y n) t = .next u ∧ State.MemoryKept s u ∧
      (u.getV 0xF = 1 ↔ ∃ X Y, X < 64 ∧ Y < 32 ∧ s.lit X Y = false ∧
        s.spriteBit px py n.toNat X Y = true)

/-! ## Rules about the whole machine -/

/-- R101, R103: a register that changes is one the instruction writes. -/
def Obligations.RegistersChangeOnlyWhereWritten : Prop :=
  ∀ (i : Instr) (s t : State) (r : Reg), exec i s = .next t → t.getV r ≠ s.getV r → r ∈ writtenRegs i

/-- R104: after a flag-writing instruction that does not fault VF is 0 or 1. -/
def Obligations.FlagIsZeroOrOneAfterAFlagWrite : Prop :=
  ∀ (i : Instr) (s t : State), writesFlag i = true → s.halt = none → exec i s = .next t → t.halt = none →
    t.getV 0xF = 0 ∨ t.getV 0xF = 1

/-- R123: only CALL and RET reach the stack and `sp`. -/
def Obligations.StackChangesOnlyByCallAndRet : Prop :=
  ∀ (i : Instr) (s t : State), exec i s = .next t → ¬ State.StackKept s t →
    i = .ret ∨ ∃ nnn, i = .call nnn

/-- R115: who writes I. -/
def Obligations.IndexChangesOnlyByItsWriters : Prop :=
  ∀ (i : Instr) (s t : State), exec i s = .next t → t.i ≠ s.i →
    (∃ nnn, i = .si nnn) ∨ (∃ x, i = .addi x) ∨ (∃ x, i = .sprite x) ∨ (∃ x, i = .rdump x) ∨
    (∃ x, i = .rload x)

/-- R130, R131: who writes DT and ST; no instruction writes the timers' reference or the tick count. -/
def Obligations.TimersChangeOnlyByTheirWriters : Prop :=
  ∀ (i : Instr) (s t : State), exec i s = .next t →
    (t.dt ≠ s.dt → ∃ x, i = .sdelay x) ∧ (t.st ≠ s.st → ∃ x, i = .ssnd x) ∧
    t.tRef = s.tRef ∧ t.ticks = s.ticks

/-- R201, R223: which instruction writes which byte; the framebuffer only CLS and DRAW, and no program
store lands in the reserved region. -/
def Obligations.MemoryChangesOnlyByItsWriters : Prop :=
  ∀ (i : Instr) (s t : State) (a : Nat), s.WellFormed → exec i s = .next t → t.byte a ≠ s.byte a →
    ((i = .cls ∨ ∃ x y n, i = .draw x y n) ∧ s.cfg.frameBase ≤ a ∧ a < s.cfg.frameBase + 256) ∨
    ((∃ x, i = .bcd x) ∧ s.i.toNat ≤ a ∧ a < s.i.toNat + 3 ∧ a < s.cfg.reservedBase) ∨
    (∃ x : Reg, i = .rdump x ∧ s.i.toNat ≤ a ∧ a ≤ s.i.toNat + x.toNat ∧ a < s.cfg.reservedBase)

/-- R111: the three forms of the pc update of an instruction that completes. -/
def Obligations.PcMovesInOneOfThreeForms : Prop :=
  ∀ (i : Instr) (s t : State), s.halt = none → exec i s = .next t → t.halt = none →
    (isSkip i = false → setsPc i = false → t.pc = s.pc + 2) ∧
    (isSkip i = true → t.pc = s.pc + 2 ∨ t.pc = s.pc + 4)

/-- No step changes the parameters or the timers' reference, and ticks are never un-applied (R846). -/
def Obligations.ParametersAndReferenceStayFixed : Prop :=
  ∀ s t : State, step s = .next t → t.cfg = s.cfg ∧ t.tRef = s.tRef ∧ s.ticks ≤ t.ticks

/-- R950: from a terminal state every step leads to a terminal state and changes only DT, ST and ticks
(and, in the model, the inputs used up). -/
def Obligations.TerminalStatesStayTerminal : Prop :=
  ∀ s : State, s.Terminal → ∃ t, step s = .next t ∧ t.Terminal ∧ t.pc = s.pc ∧
    State.RegsKeptBut [] s t ∧ t.i = s.i ∧ State.MemoryKept s t ∧ State.StackKept s t ∧
    t.tRef = s.tRef ∧ t.halt = none ∧ t.cfg = s.cfg
end

