-- ==== Sys2Proof/Laws/State.lean ====
section
/-! SUPPORT. The small lemmas of the state: one for each field after each update, true by rfl; reading a
register or a byte after each update; and the composite updates in terms of the basic ones. -/

namespace Sys2Proof.Machine

variable (s : State)

/-! ### setV -/

@[simp] theorem State.setV_v (x : Reg) (b : Byte) : (s.setV x b).v = s.v.set x.toNat b x.isLt := rfl
@[simp] theorem State.setV_i (x : Reg) (b : Byte) : (s.setV x b).i = s.i := rfl
@[simp] theorem State.setV_pc (x : Reg) (b : Byte) : (s.setV x b).pc = s.pc := rfl
@[simp] theorem State.setV_sp (x : Reg) (b : Byte) : (s.setV x b).sp = s.sp := rfl
@[simp] theorem State.setV_stack (x : Reg) (b : Byte) : (s.setV x b).stack = s.stack := rfl
@[simp] theorem State.setV_dt (x : Reg) (b : Byte) : (s.setV x b).dt = s.dt := rfl
@[simp] theorem State.setV_st (x : Reg) (b : Byte) : (s.setV x b).st = s.st := rfl
@[simp] theorem State.setV_mem (x : Reg) (b : Byte) : (s.setV x b).mem = s.mem := rfl
@[simp] theorem State.setV_tRef (x : Reg) (b : Byte) : (s.setV x b).tRef = s.tRef := rfl
@[simp] theorem State.setV_ticks (x : Reg) (b : Byte) : (s.setV x b).ticks = s.ticks := rfl
@[simp] theorem State.setV_halt (x : Reg) (b : Byte) : (s.setV x b).halt = s.halt := rfl
@[simp] theorem State.setV_cfg (x : Reg) (b : Byte) : (s.setV x b).cfg = s.cfg := rfl
@[simp] theorem State.setV_host (x : Reg) (b : Byte) : (s.setV x b).host = s.host := rfl
@[simp] theorem State.byte_setV (x : Reg) (b : Byte) (p : Nat) : (s.setV x b).byte p = s.byte p := rfl

/-! ### setI -/

@[simp] theorem State.setI_v (w : Word) : (s.setI w).v = s.v := rfl
@[simp] theorem State.setI_i (w : Word) : (s.setI w).i = w := rfl
@[simp] theorem State.setI_pc (w : Word) : (s.setI w).pc = s.pc := rfl
@[simp] theorem State.setI_sp (w : Word) : (s.setI w).sp = s.sp := rfl
@[simp] theorem State.setI_stack (w : Word) : (s.setI w).stack = s.stack := rfl
@[simp] theorem State.setI_dt (w : Word) : (s.setI w).dt = s.dt := rfl
@[simp] theorem State.setI_st (w : Word) : (s.setI w).st = s.st := rfl
@[simp] theorem State.setI_mem (w : Word) : (s.setI w).mem = s.mem := rfl
@[simp] theorem State.setI_tRef (w : Word) : (s.setI w).tRef = s.tRef := rfl
@[simp] theorem State.setI_ticks (w : Word) : (s.setI w).ticks = s.ticks := rfl
@[simp] theorem State.setI_halt (w : Word) : (s.setI w).halt = s.halt := rfl
@[simp] theorem State.setI_cfg (w : Word) : (s.setI w).cfg = s.cfg := rfl
@[simp] theorem State.setI_host (w : Word) : (s.setI w).host = s.host := rfl
@[simp] theorem State.getV_setI (w : Word) (r : Reg) : (s.setI w).getV r = s.getV r := rfl
@[simp] theorem State.byte_setI (w : Word) (p : Nat) : (s.setI w).byte p = s.byte p := rfl

/-! ### setPc -/

@[simp] theorem State.setPc_v (w : Word) : (s.setPc w).v = s.v := rfl
@[simp] theorem State.setPc_i (w : Word) : (s.setPc w).i = s.i := rfl
@[simp] theorem State.setPc_pc (w : Word) : (s.setPc w).pc = w := rfl
@[simp] theorem State.setPc_sp (w : Word) : (s.setPc w).sp = s.sp := rfl
@[simp] theorem State.setPc_stack (w : Word) : (s.setPc w).stack = s.stack := rfl
@[simp] theorem State.setPc_dt (w : Word) : (s.setPc w).dt = s.dt := rfl
@[simp] theorem State.setPc_st (w : Word) : (s.setPc w).st = s.st := rfl
@[simp] theorem State.setPc_mem (w : Word) : (s.setPc w).mem = s.mem := rfl
@[simp] theorem State.setPc_tRef (w : Word) : (s.setPc w).tRef = s.tRef := rfl
@[simp] theorem State.setPc_ticks (w : Word) : (s.setPc w).ticks = s.ticks := rfl
@[simp] theorem State.setPc_halt (w : Word) : (s.setPc w).halt = s.halt := rfl
@[simp] theorem State.setPc_cfg (w : Word) : (s.setPc w).cfg = s.cfg := rfl
@[simp] theorem State.setPc_host (w : Word) : (s.setPc w).host = s.host := rfl
@[simp] theorem State.getV_setPc (w : Word) (r : Reg) : (s.setPc w).getV r = s.getV r := rfl
@[simp] theorem State.byte_setPc (w : Word) (p : Nat) : (s.setPc w).byte p = s.byte p := rfl

/-! ### setStack -/

@[simp] theorem State.setStack_v (n : Nat) (e : List Word) : (s.setStack n e).v = s.v := rfl
@[simp] theorem State.setStack_i (n : Nat) (e : List Word) : (s.setStack n e).i = s.i := rfl
@[simp] theorem State.setStack_pc (n : Nat) (e : List Word) : (s.setStack n e).pc = s.pc := rfl
@[simp] theorem State.setStack_sp (n : Nat) (e : List Word) : (s.setStack n e).sp = n := rfl
@[simp] theorem State.setStack_stack (n : Nat) (e : List Word) : (s.setStack n e).stack = e := rfl
@[simp] theorem State.setStack_dt (n : Nat) (e : List Word) : (s.setStack n e).dt = s.dt := rfl
@[simp] theorem State.setStack_st (n : Nat) (e : List Word) : (s.setStack n e).st = s.st := rfl
@[simp] theorem State.setStack_mem (n : Nat) (e : List Word) : (s.setStack n e).mem = s.mem := rfl
@[simp] theorem State.setStack_tRef (n : Nat) (e : List Word) : (s.setStack n e).tRef = s.tRef := rfl
@[simp] theorem State.setStack_ticks (n : Nat) (e : List Word) : (s.setStack n e).ticks = s.ticks := rfl
@[simp] theorem State.setStack_halt (n : Nat) (e : List Word) : (s.setStack n e).halt = s.halt := rfl
@[simp] theorem State.setStack_cfg (n : Nat) (e : List Word) : (s.setStack n e).cfg = s.cfg := rfl
@[simp] theorem State.setStack_host (n : Nat) (e : List Word) : (s.setStack n e).host = s.host := rfl
@[simp] theorem State.getV_setStack (n : Nat) (e : List Word) (r : Reg) : (s.setStack n e).getV r = s.getV r := rfl
@[simp] theorem State.byte_setStack (n : Nat) (e : List Word) (p : Nat) : (s.setStack n e).byte p = s.byte p := rfl

/-! ### setDt -/

@[simp] theorem State.setDt_v (b : Byte) : (s.setDt b).v = s.v := rfl
@[simp] theorem State.setDt_i (b : Byte) : (s.setDt b).i = s.i := rfl
@[simp] theorem State.setDt_pc (b : Byte) : (s.setDt b).pc = s.pc := rfl
@[simp] theorem State.setDt_sp (b : Byte) : (s.setDt b).sp = s.sp := rfl
@[simp] theorem State.setDt_stack (b : Byte) : (s.setDt b).stack = s.stack := rfl
@[simp] theorem State.setDt_dt (b : Byte) : (s.setDt b).dt = b := rfl
@[simp] theorem State.setDt_st (b : Byte) : (s.setDt b).st = s.st := rfl
@[simp] theorem State.setDt_mem (b : Byte) : (s.setDt b).mem = s.mem := rfl
@[simp] theorem State.setDt_tRef (b : Byte) : (s.setDt b).tRef = s.tRef := rfl
@[simp] theorem State.setDt_ticks (b : Byte) : (s.setDt b).ticks = s.ticks := rfl
@[simp] theorem State.setDt_halt (b : Byte) : (s.setDt b).halt = s.halt := rfl
@[simp] theorem State.setDt_cfg (b : Byte) : (s.setDt b).cfg = s.cfg := rfl
@[simp] theorem State.setDt_host (b : Byte) : (s.setDt b).host = s.host := rfl
@[simp] theorem State.getV_setDt (b : Byte) (r : Reg) : (s.setDt b).getV r = s.getV r := rfl
@[simp] theorem State.byte_setDt (b : Byte) (p : Nat) : (s.setDt b).byte p = s.byte p := rfl

/-! ### setSt -/

@[simp] theorem State.setSt_v (b : Byte) : (s.setSt b).v = s.v := rfl
@[simp] theorem State.setSt_i (b : Byte) : (s.setSt b).i = s.i := rfl
@[simp] theorem State.setSt_pc (b : Byte) : (s.setSt b).pc = s.pc := rfl
@[simp] theorem State.setSt_sp (b : Byte) : (s.setSt b).sp = s.sp := rfl
@[simp] theorem State.setSt_stack (b : Byte) : (s.setSt b).stack = s.stack := rfl
@[simp] theorem State.setSt_dt (b : Byte) : (s.setSt b).dt = s.dt := rfl
@[simp] theorem State.setSt_st (b : Byte) : (s.setSt b).st = b := rfl
@[simp] theorem State.setSt_mem (b : Byte) : (s.setSt b).mem = s.mem := rfl
@[simp] theorem State.setSt_tRef (b : Byte) : (s.setSt b).tRef = s.tRef := rfl
@[simp] theorem State.setSt_ticks (b : Byte) : (s.setSt b).ticks = s.ticks := rfl
@[simp] theorem State.setSt_halt (b : Byte) : (s.setSt b).halt = s.halt := rfl
@[simp] theorem State.setSt_cfg (b : Byte) : (s.setSt b).cfg = s.cfg := rfl
@[simp] theorem State.setSt_host (b : Byte) : (s.setSt b).host = s.host := rfl
@[simp] theorem State.getV_setSt (b : Byte) (r : Reg) : (s.setSt b).getV r = s.getV r := rfl
@[simp] theorem State.byte_setSt (b : Byte) (p : Nat) : (s.setSt b).byte p = s.byte p := rfl

/-! ### setMem -/

@[simp] theorem State.setMem_v (m : Memory) : (s.setMem m).v = s.v := rfl
@[simp] theorem State.setMem_i (m : Memory) : (s.setMem m).i = s.i := rfl
@[simp] theorem State.setMem_pc (m : Memory) : (s.setMem m).pc = s.pc := rfl
@[simp] theorem State.setMem_sp (m : Memory) : (s.setMem m).sp = s.sp := rfl
@[simp] theorem State.setMem_stack (m : Memory) : (s.setMem m).stack = s.stack := rfl
@[simp] theorem State.setMem_dt (m : Memory) : (s.setMem m).dt = s.dt := rfl
@[simp] theorem State.setMem_st (m : Memory) : (s.setMem m).st = s.st := rfl
@[simp] theorem State.setMem_mem (m : Memory) : (s.setMem m).mem = m := rfl
@[simp] theorem State.setMem_tRef (m : Memory) : (s.setMem m).tRef = s.tRef := rfl
@[simp] theorem State.setMem_ticks (m : Memory) : (s.setMem m).ticks = s.ticks := rfl
@[simp] theorem State.setMem_halt (m : Memory) : (s.setMem m).halt = s.halt := rfl
@[simp] theorem State.setMem_cfg (m : Memory) : (s.setMem m).cfg = s.cfg := rfl
@[simp] theorem State.setMem_host (m : Memory) : (s.setMem m).host = s.host := rfl
@[simp] theorem State.getV_setMem (m : Memory) (r : Reg) : (s.setMem m).getV r = s.getV r := rfl

/-! ### setTicks -/

@[simp] theorem State.setTicks_v (n : Nat) : (s.setTicks n).v = s.v := rfl
@[simp] theorem State.setTicks_i (n : Nat) : (s.setTicks n).i = s.i := rfl
@[simp] theorem State.setTicks_pc (n : Nat) : (s.setTicks n).pc = s.pc := rfl
@[simp] theorem State.setTicks_sp (n : Nat) : (s.setTicks n).sp = s.sp := rfl
@[simp] theorem State.setTicks_stack (n : Nat) : (s.setTicks n).stack = s.stack := rfl
@[simp] theorem State.setTicks_dt (n : Nat) : (s.setTicks n).dt = s.dt := rfl
@[simp] theorem State.setTicks_st (n : Nat) : (s.setTicks n).st = s.st := rfl
@[simp] theorem State.setTicks_mem (n : Nat) : (s.setTicks n).mem = s.mem := rfl
@[simp] theorem State.setTicks_tRef (n : Nat) : (s.setTicks n).tRef = s.tRef := rfl
@[simp] theorem State.setTicks_ticks (n : Nat) : (s.setTicks n).ticks = n := rfl
@[simp] theorem State.setTicks_halt (n : Nat) : (s.setTicks n).halt = s.halt := rfl
@[simp] theorem State.setTicks_cfg (n : Nat) : (s.setTicks n).cfg = s.cfg := rfl
@[simp] theorem State.setTicks_host (n : Nat) : (s.setTicks n).host = s.host := rfl
@[simp] theorem State.getV_setTicks (n : Nat) (r : Reg) : (s.setTicks n).getV r = s.getV r := rfl
@[simp] theorem State.byte_setTicks (n : Nat) (p : Nat) : (s.setTicks n).byte p = s.byte p := rfl

/-! ### setHalt -/

@[simp] theorem State.setHalt_v (h : Option FaultRecord) : (s.setHalt h).v = s.v := rfl
@[simp] theorem State.setHalt_i (h : Option FaultRecord) : (s.setHalt h).i = s.i := rfl
@[simp] theorem State.setHalt_pc (h : Option FaultRecord) : (s.setHalt h).pc = s.pc := rfl
@[simp] theorem State.setHalt_sp (h : Option FaultRecord) : (s.setHalt h).sp = s.sp := rfl
@[simp] theorem State.setHalt_stack (h : Option FaultRecord) : (s.setHalt h).stack = s.stack := rfl
@[simp] theorem State.setHalt_dt (h : Option FaultRecord) : (s.setHalt h).dt = s.dt := rfl
@[simp] theorem State.setHalt_st (h : Option FaultRecord) : (s.setHalt h).st = s.st := rfl
@[simp] theorem State.setHalt_mem (h : Option FaultRecord) : (s.setHalt h).mem = s.mem := rfl
@[simp] theorem State.setHalt_tRef (h : Option FaultRecord) : (s.setHalt h).tRef = s.tRef := rfl
@[simp] theorem State.setHalt_ticks (h : Option FaultRecord) : (s.setHalt h).ticks = s.ticks := rfl
@[simp] theorem State.setHalt_halt (h : Option FaultRecord) : (s.setHalt h).halt = h := rfl
@[simp] theorem State.setHalt_cfg (h : Option FaultRecord) : (s.setHalt h).cfg = s.cfg := rfl
@[simp] theorem State.setHalt_host (h : Option FaultRecord) : (s.setHalt h).host = s.host := rfl
@[simp] theorem State.getV_setHalt (h : Option FaultRecord) (r : Reg) : (s.setHalt h).getV r = s.getV r := rfl
@[simp] theorem State.byte_setHalt (h : Option FaultRecord) (p : Nat) : (s.setHalt h).byte p = s.byte p := rfl

/-! ### setHost -/

@[simp] theorem State.setHost_v (h : HostInputs) : (s.setHost h).v = s.v := rfl
@[simp] theorem State.setHost_i (h : HostInputs) : (s.setHost h).i = s.i := rfl
@[simp] theorem State.setHost_pc (h : HostInputs) : (s.setHost h).pc = s.pc := rfl
@[simp] theorem State.setHost_sp (h : HostInputs) : (s.setHost h).sp = s.sp := rfl
@[simp] theorem State.setHost_stack (h : HostInputs) : (s.setHost h).stack = s.stack := rfl
@[simp] theorem State.setHost_dt (h : HostInputs) : (s.setHost h).dt = s.dt := rfl
@[simp] theorem State.setHost_st (h : HostInputs) : (s.setHost h).st = s.st := rfl
@[simp] theorem State.setHost_mem (h : HostInputs) : (s.setHost h).mem = s.mem := rfl
@[simp] theorem State.setHost_tRef (h : HostInputs) : (s.setHost h).tRef = s.tRef := rfl
@[simp] theorem State.setHost_ticks (h : HostInputs) : (s.setHost h).ticks = s.ticks := rfl
@[simp] theorem State.setHost_halt (h : HostInputs) : (s.setHost h).halt = s.halt := rfl
@[simp] theorem State.setHost_cfg (h : HostInputs) : (s.setHost h).cfg = s.cfg := rfl
@[simp] theorem State.setHost_host (h : HostInputs) : (s.setHost h).host = h := rfl
@[simp] theorem State.getV_setHost (h : HostInputs) (r : Reg) : (s.setHost h).getV r = s.getV r := rfl
@[simp] theorem State.byte_setHost (h : HostInputs) (p : Nat) : (s.setHost h).byte p = s.byte p := rfl

/-! ### Registers -/

/-- Reading a register after a register write. -/
theorem State.getV_setV (x r : Reg) (b : Byte) :
    (s.setV x b).getV r = if x = r then b else s.getV r := by
  simp [State.getV, State.setV, Vector.getElem_set, BitVec.toNat_inj]

@[simp] theorem State.getV_setV_same (x : Reg) (b : Byte) : (s.setV x b).getV x = b := by
  simp [State.getV_setV]

theorem State.getV_setV_other {x r : Reg} (b : Byte) (h : x ≠ r) : (s.setV x b).getV r = s.getV r := by
  simp [State.getV_setV, h]

/-! ### A whole state from its parts -/

@[simp] theorem State.setHalt_setHalt (h k : Option FaultRecord) :
    (s.setHalt h).setHalt k = s.setHalt k := rfl

theorem State.setHalt_self : s.setHalt s.halt = s := rfl

theorem State.setMem_self : s.setMem s.mem = s := rfl

@[simp] theorem State.setMem_setMem (m k : Memory) : (s.setMem m).setMem k = s.setMem k := rfl

theorem State.byte_setMem (m : Memory) (a : Nat) : (s.setMem m).byte a = Memory.read s.cfg m a := rfl

/-! ### Composite updates -/

@[simp] theorem State.advance_eq : s.advance = s.setPc (s.pc + 2) := rfl

@[simp] theorem State.skipIf_eq (c : Bool) : s.skipIf c = s.setPc (if c then s.pc + 4 else s.pc + 2) := rfl

@[simp] theorem State.jump_eq (w : Word) : s.jump w = s.setPc w := rfl

@[simp] theorem State.raise_eq (k : FaultKind) : s.raise k = s.setHalt (some ⟨k, s.pc⟩) := rfl

@[simp] theorem State.setByte_eq (a : Nat) (b : Byte) :
    s.setByte a b = s.setMem (Memory.write s.cfg s.mem a b) := rfl

@[simp] theorem State.settle_ok (t : State) : s.settle (.ok t) = .next t := rfl

@[simp] theorem State.settle_error (k : FaultKind) :
    s.settle (.error k) = .next (s.setHalt (some ⟨k, s.pc⟩)) := rfl

/-- Drawing an answer changes only the host's answers to come. -/
theorem State.takeNow_eq : s.takeNow = s.setHost s.takeNow.host := by
  unfold State.takeNow; split <;> rfl

theorem State.takeRand_eq : s.takeRand = s.setHost s.takeRand.host := by
  unfold State.takeRand; split <;> rfl

theorem State.takeKey_eq : s.takeKey = s.setHost s.takeKey.host := by
  unfold State.takeKey; split <;> rfl

theorem State.takeAwaitedKey_eq : s.takeAwaitedKey = s.setHost s.takeAwaitedKey.host := by
  unfold State.takeAwaitedKey; split <;> rfl

@[simp] theorem State.takeNow_v : s.takeNow.v = s.v := by rw [State.takeNow_eq]; rfl
@[simp] theorem State.takeNow_i : s.takeNow.i = s.i := by rw [State.takeNow_eq]; rfl
@[simp] theorem State.takeNow_pc : s.takeNow.pc = s.pc := by rw [State.takeNow_eq]; rfl
@[simp] theorem State.takeNow_sp : s.takeNow.sp = s.sp := by rw [State.takeNow_eq]; rfl
@[simp] theorem State.takeNow_stack : s.takeNow.stack = s.stack := by rw [State.takeNow_eq]; rfl
@[simp] theorem State.takeNow_dt : s.takeNow.dt = s.dt := by rw [State.takeNow_eq]; rfl
@[simp] theorem State.takeNow_st : s.takeNow.st = s.st := by rw [State.takeNow_eq]; rfl
@[simp] theorem State.takeNow_mem : s.takeNow.mem = s.mem := by rw [State.takeNow_eq]; rfl
@[simp] theorem State.takeNow_tRef : s.takeNow.tRef = s.tRef := by rw [State.takeNow_eq]; rfl
@[simp] theorem State.takeNow_ticks : s.takeNow.ticks = s.ticks := by rw [State.takeNow_eq]; rfl
@[simp] theorem State.takeNow_halt : s.takeNow.halt = s.halt := by rw [State.takeNow_eq]; rfl
@[simp] theorem State.takeNow_cfg : s.takeNow.cfg = s.cfg := by rw [State.takeNow_eq]; rfl
@[simp] theorem State.getV_takeNow (r : Reg) : s.takeNow.getV r = s.getV r := by rw [State.takeNow_eq]; rfl
@[simp] theorem State.byte_takeNow (p : Nat) : s.takeNow.byte p = s.byte p := by rw [State.takeNow_eq]; rfl

@[simp] theorem State.takeRand_v : s.takeRand.v = s.v := by rw [State.takeRand_eq]; rfl
@[simp] theorem State.takeRand_i : s.takeRand.i = s.i := by rw [State.takeRand_eq]; rfl
@[simp] theorem State.takeRand_pc : s.takeRand.pc = s.pc := by rw [State.takeRand_eq]; rfl
@[simp] theorem State.takeRand_sp : s.takeRand.sp = s.sp := by rw [State.takeRand_eq]; rfl
@[simp] theorem State.takeRand_stack : s.takeRand.stack = s.stack := by rw [State.takeRand_eq]; rfl
@[simp] theorem State.takeRand_dt : s.takeRand.dt = s.dt := by rw [State.takeRand_eq]; rfl
@[simp] theorem State.takeRand_st : s.takeRand.st = s.st := by rw [State.takeRand_eq]; rfl
@[simp] theorem State.takeRand_mem : s.takeRand.mem = s.mem := by rw [State.takeRand_eq]; rfl
@[simp] theorem State.takeRand_tRef : s.takeRand.tRef = s.tRef := by rw [State.takeRand_eq]; rfl
@[simp] theorem State.takeRand_ticks : s.takeRand.ticks = s.ticks := by rw [State.takeRand_eq]; rfl
@[simp] theorem State.takeRand_halt : s.takeRand.halt = s.halt := by rw [State.takeRand_eq]; rfl
@[simp] theorem State.takeRand_cfg : s.takeRand.cfg = s.cfg := by rw [State.takeRand_eq]; rfl
@[simp] theorem State.getV_takeRand (r : Reg) : s.takeRand.getV r = s.getV r := by rw [State.takeRand_eq]; rfl
@[simp] theorem State.byte_takeRand (p : Nat) : s.takeRand.byte p = s.byte p := by rw [State.takeRand_eq]; rfl

@[simp] theorem State.takeKey_v : s.takeKey.v = s.v := by rw [State.takeKey_eq]; rfl
@[simp] theorem State.takeKey_i : s.takeKey.i = s.i := by rw [State.takeKey_eq]; rfl
@[simp] theorem State.takeKey_pc : s.takeKey.pc = s.pc := by rw [State.takeKey_eq]; rfl
@[simp] theorem State.takeKey_sp : s.takeKey.sp = s.sp := by rw [State.takeKey_eq]; rfl
@[simp] theorem State.takeKey_stack : s.takeKey.stack = s.stack := by rw [State.takeKey_eq]; rfl
@[simp] theorem State.takeKey_dt : s.takeKey.dt = s.dt := by rw [State.takeKey_eq]; rfl
@[simp] theorem State.takeKey_st : s.takeKey.st = s.st := by rw [State.takeKey_eq]; rfl
@[simp] theorem State.takeKey_mem : s.takeKey.mem = s.mem := by rw [State.takeKey_eq]; rfl
@[simp] theorem State.takeKey_tRef : s.takeKey.tRef = s.tRef := by rw [State.takeKey_eq]; rfl
@[simp] theorem State.takeKey_ticks : s.takeKey.ticks = s.ticks := by rw [State.takeKey_eq]; rfl
@[simp] theorem State.takeKey_halt : s.takeKey.halt = s.halt := by rw [State.takeKey_eq]; rfl
@[simp] theorem State.takeKey_cfg : s.takeKey.cfg = s.cfg := by rw [State.takeKey_eq]; rfl
@[simp] theorem State.getV_takeKey (r : Reg) : s.takeKey.getV r = s.getV r := by rw [State.takeKey_eq]; rfl
@[simp] theorem State.byte_takeKey (p : Nat) : s.takeKey.byte p = s.byte p := by rw [State.takeKey_eq]; rfl

@[simp] theorem State.takeAwaitedKey_v : s.takeAwaitedKey.v = s.v := by rw [State.takeAwaitedKey_eq]; rfl
@[simp] theorem State.takeAwaitedKey_i : s.takeAwaitedKey.i = s.i := by rw [State.takeAwaitedKey_eq]; rfl
@[simp] theorem State.takeAwaitedKey_pc : s.takeAwaitedKey.pc = s.pc := by rw [State.takeAwaitedKey_eq]; rfl
@[simp] theorem State.takeAwaitedKey_sp : s.takeAwaitedKey.sp = s.sp := by rw [State.takeAwaitedKey_eq]; rfl
@[simp] theorem State.takeAwaitedKey_stack : s.takeAwaitedKey.stack = s.stack := by rw [State.takeAwaitedKey_eq]; rfl
@[simp] theorem State.takeAwaitedKey_dt : s.takeAwaitedKey.dt = s.dt := by rw [State.takeAwaitedKey_eq]; rfl
@[simp] theorem State.takeAwaitedKey_st : s.takeAwaitedKey.st = s.st := by rw [State.takeAwaitedKey_eq]; rfl
@[simp] theorem State.takeAwaitedKey_mem : s.takeAwaitedKey.mem = s.mem := by rw [State.takeAwaitedKey_eq]; rfl
@[simp] theorem State.takeAwaitedKey_tRef : s.takeAwaitedKey.tRef = s.tRef := by rw [State.takeAwaitedKey_eq]; rfl
@[simp] theorem State.takeAwaitedKey_ticks : s.takeAwaitedKey.ticks = s.ticks := by rw [State.takeAwaitedKey_eq]; rfl
@[simp] theorem State.takeAwaitedKey_halt : s.takeAwaitedKey.halt = s.halt := by rw [State.takeAwaitedKey_eq]; rfl
@[simp] theorem State.takeAwaitedKey_cfg : s.takeAwaitedKey.cfg = s.cfg := by rw [State.takeAwaitedKey_eq]; rfl
@[simp] theorem State.getV_takeAwaitedKey (r : Reg) : s.takeAwaitedKey.getV r = s.getV r := by rw [State.takeAwaitedKey_eq]; rfl
@[simp] theorem State.byte_takeAwaitedKey (p : Nat) : s.takeAwaitedKey.byte p = s.byte p := by rw [State.takeAwaitedKey_eq]; rfl

/-! ### Phase 1 touches the timers, the tick count and the host's answers only -/

@[simp] theorem State.reconcile_v (now : Nat) : (s.reconcile now).v = s.v := rfl
@[simp] theorem State.reconcile_i (now : Nat) : (s.reconcile now).i = s.i := rfl
@[simp] theorem State.reconcile_pc (now : Nat) : (s.reconcile now).pc = s.pc := rfl
@[simp] theorem State.reconcile_sp (now : Nat) : (s.reconcile now).sp = s.sp := rfl
@[simp] theorem State.reconcile_stack (now : Nat) : (s.reconcile now).stack = s.stack := rfl
@[simp] theorem State.reconcile_mem (now : Nat) : (s.reconcile now).mem = s.mem := rfl
@[simp] theorem State.reconcile_tRef (now : Nat) : (s.reconcile now).tRef = s.tRef := rfl
@[simp] theorem State.reconcile_halt (now : Nat) : (s.reconcile now).halt = s.halt := rfl
@[simp] theorem State.reconcile_cfg (now : Nat) : (s.reconcile now).cfg = s.cfg := rfl
@[simp] theorem State.reconcile_host (now : Nat) : (s.reconcile now).host = s.host := rfl
@[simp] theorem State.getV_reconcile (now : Nat) (r : Reg) : (s.reconcile now).getV r = s.getV r := rfl
@[simp] theorem State.byte_reconcile (now p : Nat) : (s.reconcile now).byte p = s.byte p := rfl

@[simp] theorem State.beginStep_v : s.beginStep.v = s.v := by simp [State.beginStep]
@[simp] theorem State.beginStep_i : s.beginStep.i = s.i := by simp [State.beginStep]
@[simp] theorem State.beginStep_pc : s.beginStep.pc = s.pc := by simp [State.beginStep]
@[simp] theorem State.beginStep_sp : s.beginStep.sp = s.sp := by simp [State.beginStep]
@[simp] theorem State.beginStep_stack : s.beginStep.stack = s.stack := by simp [State.beginStep]
@[simp] theorem State.beginStep_mem : s.beginStep.mem = s.mem := by simp [State.beginStep]
@[simp] theorem State.beginStep_tRef : s.beginStep.tRef = s.tRef := by simp [State.beginStep]
@[simp] theorem State.beginStep_halt : s.beginStep.halt = s.halt := by simp [State.beginStep]
@[simp] theorem State.beginStep_cfg : s.beginStep.cfg = s.cfg := by simp [State.beginStep]
@[simp] theorem State.getV_beginStep (r : Reg) : s.beginStep.getV r = s.getV r := by
  simp [State.beginStep]

@[simp] theorem State.byte_beginStep (p : Nat) : s.beginStep.byte p = s.byte p := by
  simp [State.beginStep]

/-! ### What a fetch reads -/

/-- The fetch depends on memory, the parameters and pc alone. -/
theorem State.fetch_congr {s t : State} (hm : t.mem = s.mem) (hc : t.cfg = s.cfg) (hp : t.pc = s.pc) :
    t.fetch = s.fetch := by
  simp [State.fetch, State.memRead, State.byte, hm, hc, hp]

theorem State.fetchInstr_congr {s t : State} (hm : t.mem = s.mem) (hc : t.cfg = s.cfg) (hp : t.pc = s.pc) :
    t.fetchInstr = s.fetchInstr := by
  simp [State.fetchInstr, State.fetch_congr hm hc hp]

@[simp] theorem State.beginStep_fetch : s.beginStep.fetch = s.fetch :=
  State.fetch_congr (by simp) (by simp) (by simp)

@[simp] theorem State.beginStep_fetchInstr : s.beginStep.fetchInstr = s.fetchInstr :=
  State.fetchInstr_congr (by simp) (by simp) (by simp)

end Sys2Proof.Machine
end

