-- ==== Sys2Proof/Laws/Memory.lean ====
section
/-! SUPPORT. The laws of memory: a read after a write, the canonical form, the checked accesses, and what
a transfer of several bytes does. -/

namespace Sys2Proof.Machine

/-! ## Cells -/

@[simp] theorem Memory.read_nil (c : Config) (a : Nat) : Memory.read c [] a = resetByte c a := rfl

theorem Memory.wf_nil (c : Config) : Memory.wf c [] := by simp [Memory.wf]

theorem Memory.wf_tail {c : Config} {p : Host.Cell} {m : Memory} (h : Memory.wf c (p :: m)) :
    Memory.wf c m :=
  ⟨(List.pairwise_cons.mp h.1).2, fun q hq => h.2 q (List.mem_cons_of_mem _ hq)⟩

/-- An address below every cell is unlisted. -/
theorem Memory.read_of_lt {c : Config} {m : Memory} {a : Nat} (h : ∀ p ∈ m, a < p.1) :
    Memory.read c m a = resetByte c a := by
  induction m with
  | nil => rfl
  | cons p rest ih =>
    have hp : a < p.1 := h p (by simp)
    simp only [Memory.read]
    rw [if_neg (by omega)]
    exact ih fun q hq => h q (List.mem_cons_of_mem _ hq)

theorem Memory.read_write_other {c : Config} {m : Memory} {a e : Nat} (v : Byte) (h : e ≠ a) :
    Memory.read c (Memory.write c m a v) e = Memory.read c m e := by
  induction m with
  | nil => unfold Memory.write; split <;> simp [Memory.read, h]
  | cons p rest ih =>
    obtain ⟨k, b⟩ := p
    simp only [Memory.write]
    split
    · split <;> simp [Memory.read, h]
    · split
      · next hk => subst hk; split <;> simp [Memory.read, h]
      · simp [Memory.read, ih]

theorem Memory.read_write_same {c : Config} {m : Memory} (hm : Memory.wf c m) (a : Nat) (v : Byte) :
    Memory.read c (Memory.write c m a v) a = v := by
  induction m with
  | nil => unfold Memory.write; split <;> simp_all [Memory.read]
  | cons p rest ih =>
    obtain ⟨k, b⟩ := p
    have hlt : ∀ q ∈ rest, k < q.1 := (List.pairwise_cons.mp hm.1).1
    simp only [Memory.write]
    split
    · next hak =>
      split
      · next hv =>
        rw [Memory.read_of_lt, hv]
        rintro q hq
        rcases List.mem_cons.mp hq with rfl | hq
        · exact hak
        · exact lt_trans hak (hlt q hq)
      · simp [Memory.read]
    · split
      · next hk =>
        subst hk
        split
        · next hv => rw [Memory.read_of_lt hlt, hv]
        · simp [Memory.read]
      · next hk => simp [Memory.read, hk, ih (Memory.wf_tail hm)]

theorem Memory.read_write {c : Config} {m : Memory} (hm : Memory.wf c m) (a e : Nat) (v : Byte) :
    Memory.read c (Memory.write c m a v) e = if e = a then v else Memory.read c m e := by
  split
  · next h => subst h; exact Memory.read_write_same hm e v
  · next h => exact Memory.read_write_other v h

/-- A cell of the memory after a write is the written one or was there before. -/
theorem Memory.mem_write {c : Config} {m : Memory} {a : Nat} {v : Byte} {p : Host.Cell}
    (h : p ∈ Memory.write c m a v) : (p = (a, v) ∧ v ≠ resetByte c a) ∨ p ∈ m := by
  induction m with
  | nil =>
    unfold Memory.write at h
    split at h
    · simp at h
    · next hv => simp at h; exact .inl ⟨h, hv⟩
  | cons q rest ih =>
    obtain ⟨k, b⟩ := q
    simp only [Memory.write] at h
    split at h
    · split at h
      · exact .inr h
      · next hv =>
        rcases List.mem_cons.mp h with rfl | h
        · exact .inl ⟨rfl, hv⟩
        · exact .inr h
    · split at h
      · split at h
        · exact .inr (List.mem_cons_of_mem _ h)
        · next hv =>
          rcases List.mem_cons.mp h with rfl | h
          · exact .inl ⟨rfl, hv⟩
          · exact .inr (List.mem_cons_of_mem _ h)
      · rcases List.mem_cons.mp h with rfl | h
        · exact .inr (by simp)
        · rcases ih h with h | h
          · exact .inl h
          · exact .inr (List.mem_cons_of_mem _ h)

/-- A write inside memory keeps the canonical form. -/
theorem Memory.wf_write {c : Config} {m : Memory} (hm : Memory.wf c m) {a : Nat} (ha : a < memSize)
    (v : Byte) : Memory.wf c (Memory.write c m a v) := by
  refine ⟨?_, fun p hp => ?_⟩
  · induction m with
    | nil => unfold Memory.write; split <;> simp
    | cons q rest ih =>
      obtain ⟨k, b⟩ := q
      obtain ⟨hlt, hrest⟩ := List.pairwise_cons.mp hm.1
      simp only [Memory.write]
      split
      · next hak =>
        split
        · exact hm.1
        · refine List.pairwise_cons.mpr ⟨fun p hp => ?_, hm.1⟩
          rcases List.mem_cons.mp hp with rfl | hp
          · exact hak
          · exact lt_trans hak (hlt p hp)
      · split
        · next hk =>
          subst hk
          split
          · exact hrest
          · exact List.pairwise_cons.mpr ⟨hlt, hrest⟩
        · next hnl hk =>
          refine List.pairwise_cons.mpr ⟨fun p hp => ?_, ih (Memory.wf_tail hm)⟩
          rcases Memory.mem_write hp with ⟨rfl, -⟩ | hp
          · simp; omega
          · exact hlt p hp
  · rcases Memory.mem_write hp with ⟨rfl, hv⟩ | hp
    · exact ⟨ha, hv⟩
    · exact hm.2 p hp

/-- Two canonical memories that read alike everywhere are equal data. -/
theorem Memory.ext_of_wf {c : Config} {m k : Memory} (hm : Memory.wf c m) (hk : Memory.wf c k)
    (h : ∀ a, Memory.read c m a = Memory.read c k a) : m = k := by
  induction m generalizing k with
  | nil =>
    cases k with
    | nil => rfl
    | cons q rest =>
      have := h q.1
      simp [Memory.read] at this
      exact absurd this.symm (hk.2 q (by simp)).2
  | cons p rest ih =>
    have hp := hm.2 p (by simp)
    have hlt := (List.pairwise_cons.mp hm.1).1
    cases k with
    | nil =>
      have := h p.1
      simp [Memory.read] at this
      exact absurd this hp.2
    | cons q rest' =>
      have hq := hk.2 q (by simp)
      have hlt' := (List.pairwise_cons.mp hk.1).1
      have haddr : p.1 = q.1 := by
        rcases lt_trichotomy p.1 q.1 with hpq | hpq | hpq
        · have h1 := h p.1
          rw [Memory.read_of_lt (m := q :: rest')] at h1
          · simp [Memory.read] at h1; exact absurd h1 hp.2
          · intro r hr
            rcases List.mem_cons.mp hr with rfl | hr
            · exact hpq
            · exact lt_trans hpq (hlt' r hr)
        · exact hpq
        · have h1 := h q.1
          rw [Memory.read_of_lt (m := p :: rest)] at h1
          · simp [Memory.read] at h1; exact absurd h1.symm hq.2
          · intro r hr
            rcases List.mem_cons.mp hr with rfl | hr
            · exact hpq
            · exact lt_trans hpq (hlt r hr)
      have hval : p.2 = q.2 := by
        have h1 := h p.1
        simpa [Memory.read, haddr] using h1
      have hpq : p = q := Prod.ext haddr hval
      subst hpq
      congr 1
      refine ih (Memory.wf_tail hm) (Memory.wf_tail hk) fun a => ?_
      by_cases ha : a = p.1
      · subst ha
        rw [Memory.read_of_lt hlt, Memory.read_of_lt hlt']
      · have h1 := h a
        simpa [Memory.read, ha] using h1

/-! ## The check (R220) -/

theorem progCheck_eq_none {c : Config} {a : Nat} :
    progCheck c a = none ↔ a < memSize ∧ a < c.reservedBase := by
  unfold progCheck
  split
  · simp; omega
  · split <;> simp <;> omega

theorem progCheck_of_lt {c : Config} (hc : c.WellFormed) {a : Nat} (ha : a < c.reservedBase) :
    progCheck c a = none :=
  progCheck_eq_none.mpr ⟨by unfold memSize; omega, ha⟩

theorem progCheck_outside {c : Config} {a : Nat} (ha : memSize ≤ a) :
    progCheck c a = some (.addressFault a) := if_pos ha

theorem progCheck_reserved {c : Config} {a : Nat} (hr : c.reservedBase ≤ a) (ha : a < memSize) :
    progCheck c a = some (.reservedAccess a) := by
  rw [progCheck, if_neg (by omega), if_pos hr]

/-! ## Transfers: the first failing access is the fault; with none, every byte is moved -/

theorem State.readBytes_ok (s : State) {n a : Nat} (h : ∀ k, k < n → progCheck s.cfg (a + k) = none) :
    s.readBytes n a = .ok ((List.range n).map fun k => s.byte (a + k)) := by
  induction n generalizing a with
  | zero => rfl
  | succ n ih =>
    have h0 : progCheck s.cfg a = none := h 0 (by omega)
    have hr := ih (a := a + 1) fun k hk => by simpa [Nat.add_assoc, Nat.add_comm 1] using h (k + 1) (by omega)
    simp [State.readBytes, State.memRead, h0, hr, List.range_succ_eq_map, Function.comp_def,
      Nat.add_assoc, Nat.add_comm 1]

theorem State.readBytes_error (s : State) {n a k : Nat} {f : FaultKind} (hk : k < n)
    (h : ∀ j, j < k → progCheck s.cfg (a + j) = none) (hf : progCheck s.cfg (a + k) = some f) :
    s.readBytes n a = .error f := by
  induction n generalizing a k with
  | zero => omega
  | succ n ih =>
    cases k with
    | zero => simp [State.readBytes, State.memRead, by simpa using hf]
    | succ k =>
      have h0 : progCheck s.cfg a = none := h 0 (by omega)
      have hr := ih (a := a + 1) (k := k) (by omega)
        (fun j hj => by simpa [Nat.add_assoc, Nat.add_comm 1] using h (j + 1) (by omega))
        (by simpa [Nat.add_assoc, Nat.add_comm 1] using hf)
      simp [State.readBytes, State.memRead, h0, hr]

/-- Memory with bytes stored at rising addresses. -/
def Memory.store (c : Config) (m : Memory) (a : Nat) : List Byte → Memory
  | [] => m
  | b :: bs => Memory.store c (Memory.write c m a b) (a + 1) bs

theorem State.storeBytes_eq (s : State) (a : Nat) (bs : List Byte) :
    s.storeBytes a bs = s.setMem (Memory.store s.cfg s.mem a bs) := by
  induction bs generalizing s a with
  | nil => rfl
  | cons b bs ih => simp [State.storeBytes, Memory.store, ih]

theorem State.writeBytes_ok (s : State) {a : Nat} {bs : List Byte}
    (h : ∀ k, k < bs.length → progCheck s.cfg (a + k) = none) :
    s.writeBytes a bs = .ok (s.setMem (Memory.store s.cfg s.mem a bs)) := by
  induction bs generalizing s a with
  | nil => rfl
  | cons b bs ih =>
    have h0 : progCheck s.cfg a = none := h 0 (by simp)
    have hr := ih (s := s.setByte a b) (a := a + 1) fun k hk => by
      simpa [Nat.add_assoc, Nat.add_comm 1] using h (k + 1) (by simpa using hk)
    simp [State.writeBytes, State.memWrite, h0, Memory.store] at hr ⊢
    exact hr

theorem State.writeBytes_error (s : State) {a k : Nat} {f : FaultKind} {bs : List Byte}
    (hk : k < bs.length) (h : ∀ j, j < k → progCheck s.cfg (a + j) = none)
    (hf : progCheck s.cfg (a + k) = some f) : s.writeBytes a bs = .error f := by
  induction bs generalizing s a k with
  | nil => simp at hk
  | cons b bs ih =>
    cases k with
    | zero => simp [State.writeBytes, State.memWrite, by simpa using hf]
    | succ k =>
      have h0 : progCheck s.cfg a = none := h 0 (by omega)
      have hr := ih (s := s.setByte a b) (a := a + 1) (k := k) (by simpa using hk)
        (fun j hj => by simpa [Nat.add_assoc, Nat.add_comm 1] using h (j + 1) (by omega))
        (by simpa [Nat.add_assoc, Nat.add_comm 1] using hf)
      simp [State.writeBytes, State.memWrite, h0] at hr ⊢
      exact hr

/-- Either every access passes the check or there is a first one that fails. -/
theorem accessible_or_first_fault (c : Config) (a n : Nat) :
    (∀ k, k < n → progCheck c (a + k) = none) ∨
    ∃ k f, k < n ∧ (∀ j, j < k → progCheck c (a + j) = none) ∧ progCheck c (a + k) = some f := by
  induction n with
  | zero => exact .inl fun k hk => by omega
  | succ n ih =>
    rcases ih with h | ⟨k, f, hk, h, hf⟩
    · cases hc : progCheck c (a + n) with
      | none =>
        refine .inl fun k hk => ?_
        rcases Nat.lt_succ_iff_lt_or_eq.mp hk with hk | rfl
        · exact h k hk
        · exact hc
      | some f => exact .inr ⟨n, f, by omega, h, hc⟩
    · exact .inr ⟨k, f, by omega, h, hf⟩

theorem Memory.wf_store {c : Config} {m : Memory} (hm : Memory.wf c m) {a : Nat} {bs : List Byte}
    (h : a + bs.length ≤ memSize) : Memory.wf c (Memory.store c m a bs) := by
  induction bs generalizing m a with
  | nil => exact hm
  | cons b bs ih =>
    simp only [List.length_cons] at h
    exact ih (Memory.wf_write hm (by omega) b) (by omega)

/-- What memory reads after bytes are stored. -/
theorem Memory.read_store {c : Config} {m : Memory} (hm : Memory.wf c m) {a : Nat} {bs : List Byte}
    (h : a + bs.length ≤ memSize) (e : Nat) :
    Memory.read c (Memory.store c m a bs) e =
      if a ≤ e ∧ e < a + bs.length then bs.getD (e - a) 0 else Memory.read c m e := by
  induction bs generalizing m a with
  | nil => simp [Memory.store]
  | cons b bs ih =>
    simp only [List.length_cons] at h
    rw [Memory.store, ih (Memory.wf_write hm (by omega) b) (by omega), Memory.read_write hm]
    by_cases h1 : a + 1 ≤ e ∧ e < a + 1 + bs.length
    · rw [if_pos h1, if_pos (by simp; omega)]
      obtain ⟨d, rfl⟩ : ∃ d, e = a + 1 + d := ⟨e - (a + 1), by omega⟩
      rw [show a + 1 + d - a = d + 1 by omega, show a + 1 + d - (a + 1) = d by omega]
      simp
    · rw [if_neg h1]
      by_cases h2 : e = a
      · subst h2; simp
      · rw [if_neg h2, if_neg (by simp; omega)]

/-- Outside the stored bytes memory reads as before, in canonical form or not. -/
theorem Memory.read_store_outside (c : Config) (m : Memory) {a e : Nat} {bs : List Byte}
    (h : ¬ (a ≤ e ∧ e < a + bs.length)) :
    Memory.read c (Memory.store c m a bs) e = Memory.read c m e := by
  induction bs generalizing m a with
  | nil => rfl
  | cons b bs ih =>
    simp only [List.length_cons] at h
    rw [Memory.store, ih _ (by omega), Memory.read_write_other b (by omega)]

end Sys2Proof.Machine
end

