-- ==== Sys2Proof/Laws/Display.lean ====
section
/-! SUPPORT. The laws of the framebuffer: bytes and pixels, clearing, and what drawing a sprite does to
every pixel. -/

namespace Sys2Proof.Machine

/-! ## Framebuffer bytes -/

theorem frameRead_frameWrite {c : Config} {m : Memory} (hm : Memory.wf c m) (k j : Nat) (b : Byte) :
    frameRead c (frameWrite c m k b) j = if j = k then b else frameRead c m j := by
  unfold frameRead frameWrite
  rw [Memory.read_write hm]
  simp

theorem frameWrite_wf {c : Config} {m : Memory} (hc : c.WellFormed) (hm : Memory.wf c m) {k : Nat}
    (hk : k < 256) (b : Byte) : Memory.wf c (frameWrite c m k b) :=
  Memory.wf_write hm (by unfold memSize; omega) b

theorem frameWrite_outside {c : Config} (m : Memory) {k a : Nat} (hk : k < 256) (b : Byte)
    (ha : ¬ (c.frameBase ≤ a ∧ a < c.frameBase + 256)) :
    Memory.read c (frameWrite c m k b) a = Memory.read c m a :=
  Memory.read_write_other b (by omega)

/-! ## Clearing (R710) -/

theorem clearFrame_wf {c : Config} (hc : c.WellFormed) {m : Memory} (hm : Memory.wf c m) {n : Nat}
    (hn : n ≤ 256) : Memory.wf c (clearFrame c m n) := by
  induction n with
  | zero => exact hm
  | succ n ih => exact frameWrite_wf hc (ih (by omega)) (by omega) 0

theorem frameRead_clearFrame {c : Config} (hc : c.WellFormed) {m : Memory} (hm : Memory.wf c m) {n : Nat}
    (hn : n ≤ 256) (k : Nat) :
    frameRead c (clearFrame c m n) k = if k < n then 0 else frameRead c m k := by
  induction n with
  | zero => simp [clearFrame]
  | succ n ih =>
    rw [clearFrame, frameRead_frameWrite (clearFrame_wf hc hm (by omega)), ih (by omega)]
    split
    · rw [if_pos (by omega)]
    · split
      · rw [if_pos (by omega)]
      · rw [if_neg (by omega)]

theorem clearFrame_outside {c : Config} (m : Memory) {n a : Nat} (hn : n ≤ 256)
    (ha : ¬ (c.frameBase ≤ a ∧ a < c.frameBase + 256)) :
    Memory.read c (clearFrame c m n) a = Memory.read c m a := by
  induction n with
  | zero => rfl
  | succ n ih => rw [clearFrame, frameWrite_outside _ (by omega) 0 ha, ih (by omega)]

/-! ## Pixels (R700) -/

/-- The mask of a pixel has exactly its bit set. -/
theorem pixMask_getLsbD (X j : Nat) : (pixMask X).getLsbD j = decide (j = X % 8) := by
  have h : X % 8 < 8 := Nat.mod_lt _ (by omega)
  simp only [pixMask, BitVec.getLsbD_shiftLeft, BitVec.getLsbD_one]
  by_cases hj : j = X % 8
  · subst hj; simp [h]
  · simp [hj]; omega

/-- A pixel is lit exactly when its bit is 1. -/
theorem pixelLit_eq (c : Config) (m : Memory) (X Y : Nat) :
    pixelLit c m X Y = (frameRead c m (pixAddr X Y)).getLsbD (X % 8) := by
  unfold pixelLit
  generalize frameRead c m (pixAddr X Y) = b
  have h : X % 8 < 8 := Nat.mod_lt _ (by omega)
  cases hb : b.getLsbD (X % 8) with
  | false =>
    have : b &&& pixMask X = 0 := by
      apply BitVec.eq_of_getLsbD_eq
      intro j _
      rw [BitVec.getLsbD_and, pixMask_getLsbD]
      by_cases hj : j = X % 8
      · subst hj; simp [hb]
      · simp [hj]
    simp [this]
  | true =>
    have : b &&& pixMask X ≠ 0 := by
      intro h0
      have := congrArg (fun v : Byte => v.getLsbD (X % 8)) h0
      simp [BitVec.getLsbD_and, pixMask_getLsbD, hb] at this
    simpa using this

theorem State.lit_eq (s : State) (X Y : Nat) : s.lit X Y = pixelLit s.cfg s.mem X Y := by
  rw [pixelLit_eq]; rfl

theorem onScreen_iff {X Y : Nat} : onScreen X Y = true ↔ X < 64 ∧ Y < 32 := by
  rw [onScreen, Bool.and_eq_true]
  exact and_congr decide_eq_true_iff decide_eq_true_iff

theorem pixAddr_lt {X Y : Nat} (h : onScreen X Y = true) : pixAddr X Y < 256 := by
  have := onScreen_iff.mp h
  unfold pixAddr; omega

/-- Byte and bit name one pixel. -/
theorem pixAddr_inj {X Y P Q : Nat} (hX : X < 64) (hP : P < 64) :
    (pixAddr X Y = pixAddr P Q ∧ X % 8 = P % 8) ↔ (X = P ∧ Y = Q) := by
  unfold pixAddr; omega

/-! ## Drawing pixels -/

theorem Blit.toggle_wf {c : Config} (hc : c.WellFormed) {d : Blit} (hd : Memory.wf c d.mem)
    {p : Nat × Nat} (hp : onScreen p.1 p.2 = true) : Memory.wf c (Blit.toggle c d p).mem :=
  frameWrite_wf hc hd (pixAddr_lt hp) _

/-- One toggled pixel: it flips, and every other pixel stays. -/
theorem Blit.toggle_lit {c : Config} {d : Blit} (hd : Memory.wf c d.mem) {p : Nat × Nat}
    (hp : onScreen p.1 p.2 = true) {X : Nat} (hX : X < 64) (Y : Nat) :
    pixelLit c (Blit.toggle c d p).mem X Y = (pixelLit c d.mem X Y ^^ decide ((X, Y) = p)) := by
  obtain ⟨P, Q⟩ := p
  have hP : P < 64 := (onScreen_iff.mp hp).1
  simp only [pixelLit_eq, Blit.toggle, frameRead_frameWrite hd]
  have hinj := pixAddr_inj (Y := Y) (Q := Q) hX hP
  split
  · next h =>
    rw [BitVec.getLsbD_xor, pixMask_getLsbD, h]
    congr 1
    simp only [Prod.mk.injEq, ← hinj, h, true_and]
  · next h =>
    have : ¬ (X = P ∧ Y = Q) := fun he => h (hinj.mpr he).1
    simp [this]

/-- Drawing distinct pixels of the frame flips each of them once, and the draw collides exactly when one
of them was lit. -/
theorem Blit.foldl_toggle {c : Config} (hc : c.WellFormed) (ps : List (Nat × Nat)) (hn : ps.Nodup)
    (hs : ∀ p ∈ ps, onScreen p.1 p.2 = true) (d : Blit) (hd : Memory.wf c d.mem) :
    Memory.wf c (ps.foldl (Blit.toggle c) d).mem ∧
    (∀ X Y, X < 64 → pixelLit c (ps.foldl (Blit.toggle c) d).mem X Y
      = (pixelLit c d.mem X Y ^^ decide ((X, Y) ∈ ps))) ∧
    (ps.foldl (Blit.toggle c) d).hit = (d.hit || ps.any fun p => pixelLit c d.mem p.1 p.2) ∧
    (∀ a, ¬ (c.frameBase ≤ a ∧ a < c.frameBase + 256) →
      Memory.read c (ps.foldl (Blit.toggle c) d).mem a = Memory.read c d.mem a) := by
  induction ps generalizing d with
  | nil => exact ⟨hd, by simp, by simp, by simp⟩
  | cons p ps ih =>
    obtain ⟨hnp, hn'⟩ := List.nodup_cons.mp hn
    have hp := hs p (by simp)
    have hs' : ∀ q ∈ ps, onScreen q.1 q.2 = true := fun q hq => hs q (List.mem_cons_of_mem _ hq)
    obtain ⟨h1, h2, h3, h4⟩ := ih hn' hs' (Blit.toggle c d p) (Blit.toggle_wf hc hd hp)
    simp only [List.foldl_cons]
    refine ⟨h1, fun X Y hX => ?_, ?_, fun a ha => ?_⟩
    · rw [h2 X Y hX, Blit.toggle_lit hd hp hX]
      by_cases hXY : (X, Y) = p
      · subst hXY; simp [hnp]
      · simp [hXY]
    · rw [h3]
      have hany : (ps.any fun q => pixelLit c (Blit.toggle c d p).mem q.1 q.2)
          = ps.any fun q => pixelLit c d.mem q.1 q.2 := by
        rw [Bool.eq_iff_iff, List.any_eq_true, List.any_eq_true]
        refine exists_congr fun q => and_congr_right fun hq => ?_
        have hq64 : q.1 < 64 := (onScreen_iff.mp (hs' q hq)).1
        have hne : (q.1, q.2) ≠ p := by rintro rfl; exact hnp hq
        rw [Blit.toggle_lit hd hp hq64]; simp [hne]
      rw [hany]
      simp [Blit.toggle, Bool.or_assoc]
    · rw [h4 a ha]
      exact frameWrite_outside _ (pixAddr_lt hp) _ ha

/-! ## A sprite's pixels -/

theorem mem_litColumns {b : Byte} {col : Nat} :
    col ∈ litColumns b ↔ col < 8 ∧ b.getLsbD (7 - col) = true := by
  simp [litColumns]

theorem mem_spritePixels {px py X Y : Nat} {rows : List Byte} :
    (X, Y) ∈ spritePixels px py rows ↔
      X < 64 ∧ Y < 32 ∧ px ≤ X ∧ X < px + 8 ∧ py ≤ Y ∧ Y < py + rows.length ∧
        (rows.getD (Y - py) 0).getLsbD (7 - (X - px)) = true := by
  induction rows generalizing py with
  | nil => simp only [spritePixels, List.not_mem_nil, List.length_nil, false_iff]; omega
  | cons b bs ih =>
    simp only [spritePixels, List.mem_append, ih, List.mem_filter, List.mem_map, onScreen_iff,
      mem_litColumns, List.length_cons]
    constructor
    · rintro (⟨⟨col, ⟨hc, hb⟩, he⟩, hX, hY⟩ | ⟨hX, hY, h1, h2, h3, h4, h5⟩)
      · obtain ⟨rfl, rfl⟩ := Prod.mk.inj he
        refine ⟨hX, hY, by omega, by omega, by omega, by omega, ?_⟩
        rw [Nat.sub_self, show 7 - (px + col - px) = 7 - col by omega]
        simpa using hb
      · refine ⟨hX, hY, h1, h2, by omega, by omega, ?_⟩
        rw [show Y - py = (Y - (py + 1)) + 1 by omega]
        simpa using h5
    · rintro ⟨hX, hY, h1, h2, h3, h4, h5⟩
      by_cases hpy : Y = py
      · subst hpy
        rw [Nat.sub_self] at h5
        refine .inl ⟨⟨X - px, ⟨by omega, by simpa using h5⟩, ?_⟩, hX, hY⟩
        exact Prod.ext (by simp; omega) rfl
      · refine .inr ⟨hX, hY, h1, h2, by omega, by omega, ?_⟩
        rw [show Y - py = (Y - (py + 1)) + 1 by omega] at h5
        simpa using h5

theorem spritePixels_onScreen {px py : Nat} {rows : List Byte} :
    ∀ p ∈ spritePixels px py rows, onScreen p.1 p.2 = true := by
  rintro ⟨X, Y⟩ h
  have := mem_spritePixels.mp h
  exact onScreen_iff.mpr ⟨this.1, this.2.1⟩

theorem spritePixels_nodup (px py : Nat) (rows : List Byte) : (spritePixels px py rows).Nodup := by
  induction rows generalizing py with
  | nil => simp [spritePixels]
  | cons b bs ih =>
    rw [spritePixels, List.nodup_append]
    refine ⟨?_, ih _, ?_⟩
    · apply List.Nodup.filter
      apply List.Nodup.map
      · intro a b hab
        have := (Prod.mk.inj hab).1
        omega
      · exact List.Nodup.filter _ List.nodup_range
    · rintro ⟨X, Y⟩ h1 q h2 rfl
      have h2 := mem_spritePixels.mp h2
      simp only [List.mem_filter, List.mem_map] at h1
      obtain ⟨⟨col, -, he⟩, -⟩ := h1
      have := (Prod.mk.inj he).2
      omega

/-- The sprite's rows as DRAW reads them give `spriteBit`. -/
theorem State.mem_spritePixels_iff (s : State) {px py n X Y : Nat} (hX : X < 64) (hY : Y < 32) :
    (X, Y) ∈ spritePixels px py ((List.range n).map fun k => s.byte (s.i.toNat + k)) ↔
      s.spriteBit px py n X Y = true := by
  rw [mem_spritePixels]
  simp only [List.length_map, List.length_range, State.spriteBit, Bool.and_eq_true, decide_eq_true_eq]
  constructor
  · rintro ⟨-, -, h1, h2, h3, h4, h5⟩
    refine ⟨⟨h1, h2, h3, h4⟩, ?_⟩
    simpa [show Y - py < n by omega] using h5
  · rintro ⟨⟨h1, h2, h3, h4⟩, h5⟩
    refine ⟨hX, hY, h1, h2, h3, h4, ?_⟩
    simpa [show Y - py < n by omega] using h5

/-- What drawing does: canonical memory, every pixel of the frame, the collision, and nothing outside. -/
theorem State.blit_sprite (s : State) (hs : s.WellFormed) (px py n : Nat) :
    let d := blit s.cfg s.mem (spritePixels px py ((List.range n).map fun k => s.byte (s.i.toNat + k)))
    Memory.wf s.cfg d.mem ∧
    (∀ X Y, X < 64 → Y < 32 → pixelLit s.cfg d.mem X Y = (s.lit X Y ^^ s.spriteBit px py n X Y)) ∧
    (d.hit = true ↔ ∃ X Y, X < 64 ∧ Y < 32 ∧ s.lit X Y = true ∧ s.spriteBit px py n X Y = true) ∧
    (∀ a, ¬ (s.cfg.frameBase ≤ a ∧ a < s.cfg.frameBase + 256) →
      Memory.read s.cfg d.mem a = s.byte a) := by
  intro d
  obtain ⟨h1, h2, h3, h4⟩ := Blit.foldl_toggle hs.1
    (spritePixels px py ((List.range n).map fun k => s.byte (s.i.toNat + k)))
    (spritePixels_nodup _ _ _) spritePixels_onScreen { mem := s.mem, hit := false } hs.2.1
  refine ⟨h1, fun X Y hX hY => ?_, ?_, h4⟩
  · have := h2 X Y hX
    rw [State.lit_eq]
    refine this.trans ?_
    congr 1
    rw [Bool.eq_iff_iff, decide_eq_true_iff]
    exact s.mem_spritePixels_iff hX hY
  · rw [show d.hit = _ from h3]
    simp only [Bool.false_or, List.any_eq_true]
    constructor
    · rintro ⟨⟨X, Y⟩, hm, hl⟩
      have hXY := onScreen_iff.mp (spritePixels_onScreen _ hm)
      exact ⟨X, Y, hXY.1, hXY.2, by rw [State.lit_eq]; exact hl, (s.mem_spritePixels_iff hXY.1 hXY.2).mp hm⟩
    · rintro ⟨X, Y, hX, hY, hl, hb⟩
      exact ⟨(X, Y), (s.mem_spritePixels_iff hX hY).mpr hb, by rw [State.lit_eq] at hl; exact hl⟩

end Sys2Proof.Machine
end

