-- ==== Sys2Proof/Laws/Encoding.lean ====
section
/-! SUPPORT. The laws of the encoding: fields and words as numbers, the fields of each format, and the
bytes of a word. -/

namespace Sys2Proof

/-! ## Fields and words as numbers -/

theorem fieldO_toNat (w : Word) : (fieldO w).toNat = w.toNat / 4096 := by
  have := w.isLt
  simp [fieldO, Nat.shiftRight_eq_div_pow]; omega

theorem fieldX_toNat (w : Word) : (fieldX w).toNat = w.toNat / 256 % 16 := by
  simp [fieldX, Nat.shiftRight_eq_div_pow]

theorem fieldY_toNat (w : Word) : (fieldY w).toNat = w.toNat / 16 % 16 := by
  simp [fieldY, Nat.shiftRight_eq_div_pow]

theorem fieldN_toNat (w : Word) : (fieldN w).toNat = w.toNat % 16 := by
  simp [fieldN]

theorem fieldKk_toNat (w : Word) : (fieldKk w).toNat = w.toNat % 256 := by
  simp [fieldKk]

theorem fieldNnn_toNat (w : Word) : (fieldNnn w).toNat = w.toNat % 4096 := by
  simp [fieldNnn]

theorem highByte_toNat (w : Word) : (highByte w).toNat = w.toNat / 256 := by
  have := w.isLt
  simp [highByte, Nat.shiftRight_eq_div_pow]; omega

theorem lowByte_toNat (w : Word) : (lowByte w).toNat = w.toNat % 256 := by
  simp [lowByte]

theorem append_toNat {a b : Nat} (x : BitVec a) (y : BitVec b) :
    (x ++ y).toNat = x.toNat * 2 ^ b + y.toNat := by
  rw [BitVec.toNat_append, ← Nat.shiftLeft_add_eq_or_of_lt y.isLt, Nat.shiftLeft_eq]

theorem wordOfBytes_toNat (hi lo : Byte) : (wordOfBytes hi lo).toNat = hi.toNat * 256 + lo.toNat :=
  append_toNat hi lo

theorem wordAddr_toNat (o : Nibble) (nnn : Addr) : (wordAddr o nnn).toNat = o.toNat * 4096 + nnn.toNat :=
  append_toNat o nnn

theorem wordXkk_toNat (o : Nibble) (x : Reg) (kk : Byte) :
    (wordXkk o x kk).toNat = o.toNat * 4096 + x.toNat * 256 + kk.toNat := by
  have h : (wordXkk o x kk).toNat = ((o ++ x) ++ kk).toNat := rfl
  rw [h, append_toNat, append_toNat]; omega

theorem wordXyn_toNat (o : Nibble) (x y : Reg) (n : Nibble) :
    (wordXyn o x y n).toNat = o.toNat * 4096 + x.toNat * 256 + y.toNat * 16 + n.toNat := by
  have h : (wordXyn o x y n).toNat = (((o ++ x) ++ y) ++ n).toNat := rfl
  rw [h, append_toNat, append_toNat, append_toNat]; omega

/-! ## The fields of each format -/

section Formats
variable (o n : Nibble) (x y : Reg) (kk : Byte) (nnn : Addr)

@[simp] theorem fieldO_wordAddr : fieldO (wordAddr o nnn) = o := by
  apply BitVec.eq_of_toNat_eq; rw [fieldO_toNat, wordAddr_toNat]; omega

@[simp] theorem fieldNnn_wordAddr : fieldNnn (wordAddr o nnn) = nnn := by
  apply BitVec.eq_of_toNat_eq; rw [fieldNnn_toNat, wordAddr_toNat]; omega

@[simp] theorem fieldO_wordXkk : fieldO (wordXkk o x kk) = o := by
  apply BitVec.eq_of_toNat_eq; rw [fieldO_toNat, wordXkk_toNat]; omega

@[simp] theorem fieldX_wordXkk : fieldX (wordXkk o x kk) = x := by
  apply BitVec.eq_of_toNat_eq; rw [fieldX_toNat, wordXkk_toNat]; omega

@[simp] theorem fieldKk_wordXkk : fieldKk (wordXkk o x kk) = kk := by
  apply BitVec.eq_of_toNat_eq; rw [fieldKk_toNat, wordXkk_toNat]; omega

@[simp] theorem fieldO_wordXyn : fieldO (wordXyn o x y n) = o := by
  apply BitVec.eq_of_toNat_eq; rw [fieldO_toNat, wordXyn_toNat]; omega

@[simp] theorem fieldX_wordXyn : fieldX (wordXyn o x y n) = x := by
  apply BitVec.eq_of_toNat_eq; rw [fieldX_toNat, wordXyn_toNat]; omega

@[simp] theorem fieldY_wordXyn : fieldY (wordXyn o x y n) = y := by
  apply BitVec.eq_of_toNat_eq; rw [fieldY_toNat, wordXyn_toNat]; omega

@[simp] theorem fieldN_wordXyn : fieldN (wordXyn o x y n) = n := by
  apply BitVec.eq_of_toNat_eq; rw [fieldN_toNat, wordXyn_toNat]; omega

/-- A word is the format of its own fields. -/
theorem wordAddr_fields (w : Word) : wordAddr (fieldO w) (fieldNnn w) = w := by
  apply BitVec.eq_of_toNat_eq; rw [wordAddr_toNat, fieldO_toNat, fieldNnn_toNat]; omega

theorem wordXkk_fields (w : Word) : wordXkk (fieldO w) (fieldX w) (fieldKk w) = w := by
  apply BitVec.eq_of_toNat_eq; rw [wordXkk_toNat, fieldO_toNat, fieldX_toNat, fieldKk_toNat]; omega

theorem wordXyn_fields (w : Word) : wordXyn (fieldO w) (fieldX w) (fieldY w) (fieldN w) = w := by
  apply BitVec.eq_of_toNat_eq
  rw [wordXyn_toNat, fieldO_toNat, fieldX_toNat, fieldY_toNat, fieldN_toNat]; omega

end Formats

/-! ## The bytes of a word -/

@[simp] theorem wordOfBytes_bytes (w : Word) : wordOfBytes (highByte w) (lowByte w) = w := by
  apply BitVec.eq_of_toNat_eq; rw [wordOfBytes_toNat, highByte_toNat, lowByte_toNat]; omega

@[simp] theorem highByte_wordOfBytes (hi lo : Byte) : highByte (wordOfBytes hi lo) = hi := by
  apply BitVec.eq_of_toNat_eq; rw [highByte_toNat, wordOfBytes_toNat]; omega

@[simp] theorem lowByte_wordOfBytes (hi lo : Byte) : lowByte (wordOfBytes hi lo) = lo := by
  apply BitVec.eq_of_toNat_eq; rw [lowByte_toNat, wordOfBytes_toNat]; omega

/-- Decoding bytes is decoding their word. -/
theorem decodeTableWord_eq (nbits w : Nat) : decodeTableWord nbits w = decode (tableWord nbits w) := by
  simp only [decodeTableWord, decodeBytes, wordOfBytes_bytes]
  cases decode (tableWord nbits w) <;> rfl

/-! ## Well-formedness -/

theorem Operand.fits_toNat {w : Nat} (x : BitVec w) : (Operand.mk x.toNat w).fits = true :=
  decide_eq_true x.isLt

/-- Every instruction is well formed, "by construction of the mask" (R310). -/
theorem Instr.wellFormed_all (i : Instr) : i.wellFormed = true := by
  cases i <;> simp [Instr.wellFormed, Instr.operands, Operand.fits_toNat]

/-- A register index that decoding gives passes the construction check (R12, R808). -/
theorem makeRegister_of_field (x : Reg) : makeRegister x.toNat = some x := by
  have : x.toNat ≤ 0xF := by omega
  simp [makeRegister, this]

end Sys2Proof
end

