-- ==== Sys2Proof/Laws/Transfer.lean ====
section
/-! SUPPORT. What the instructions that can fault answer: the whole answer of CALL, RET and SPRITE, and
for each memory transfer its effect where every access passes and its fault where one fails. -/

namespace Sys2Proof.Machine

variable (s : State)

/-- Everything an instruction that can fault answers. -/
theorem State.settle_eq_next {r : Except FaultKind State} {t : State} :
    s.settle r = .next t ↔ r = .ok t ∨ ∃ k, r = .error k ∧ t = s.setHalt (some ⟨k, s.pc⟩) := by
  cases r <;> simp [eq_comm]

@[simp] theorem State.effective_zero : s.effective 0 = s.i.toNat := rfl

/-! ## Registers moved by RDUMP and RLOAD -/

@[simp] theorem State.dumpedV_length (n : Nat) : (s.dumpedV n).length = n := by simp [State.dumpedV]

theorem State.dumpedV_getD {n k : Nat} (hk : k < n) :
    (s.dumpedV n).getD k 0 = s.getV (BitVec.ofNat 4 k) := by
  simp [State.dumpedV, hk]

/-- RLOAD's register writes change `v` alone. -/
theorem State.loadV_eq (k : Nat) (bs : List Byte) : s.loadV k bs = { s with v := (s.loadV k bs).v } := by
  induction bs generalizing s k with
  | nil => rfl
  | cons b bs ih => rw [State.loadV, ih]; rfl

@[simp] theorem State.loadV_i (k : Nat) (bs : List Byte) : (s.loadV k bs).i = s.i := by
  rw [State.loadV_eq]
@[simp] theorem State.loadV_pc (k : Nat) (bs : List Byte) : (s.loadV k bs).pc = s.pc := by
  rw [State.loadV_eq]
@[simp] theorem State.loadV_sp (k : Nat) (bs : List Byte) : (s.loadV k bs).sp = s.sp := by
  rw [State.loadV_eq]
@[simp] theorem State.loadV_stack (k : Nat) (bs : List Byte) : (s.loadV k bs).stack = s.stack := by
  rw [State.loadV_eq]
@[simp] theorem State.loadV_dt (k : Nat) (bs : List Byte) : (s.loadV k bs).dt = s.dt := by
  rw [State.loadV_eq]
@[simp] theorem State.loadV_st (k : Nat) (bs : List Byte) : (s.loadV k bs).st = s.st := by
  rw [State.loadV_eq]
@[simp] theorem State.loadV_mem (k : Nat) (bs : List Byte) : (s.loadV k bs).mem = s.mem := by
  rw [State.loadV_eq]
@[simp] theorem State.loadV_tRef (k : Nat) (bs : List Byte) : (s.loadV k bs).tRef = s.tRef := by
  rw [State.loadV_eq]
@[simp] theorem State.loadV_ticks (k : Nat) (bs : List Byte) : (s.loadV k bs).ticks = s.ticks := by
  rw [State.loadV_eq]
@[simp] theorem State.loadV_halt (k : Nat) (bs : List Byte) : (s.loadV k bs).halt = s.halt := by
  rw [State.loadV_eq]
@[simp] theorem State.loadV_cfg (k : Nat) (bs : List Byte) : (s.loadV k bs).cfg = s.cfg := by
  rw [State.loadV_eq]
@[simp] theorem State.loadV_host (k : Nat) (bs : List Byte) : (s.loadV k bs).host = s.host := by
  rw [State.loadV_eq]
@[simp] theorem State.byte_loadV (k : Nat) (bs : List Byte) (a : Nat) : (s.loadV k bs).byte a = s.byte a := by
  simp [State.byte]

/-- A register after RLOAD's writes. -/
theorem State.getV_loadV (k : Nat) (bs : List Byte) (h : k + bs.length ≤ 16) (r : Reg) :
    (s.loadV k bs).getV r =
      if k ≤ r.toNat ∧ r.toNat < k + bs.length then bs.getD (r.toNat - k) 0 else s.getV r := by
  induction bs generalizing s k with
  | nil => simp [State.loadV]
  | cons b bs ih =>
    simp only [List.length_cons] at h
    rw [State.loadV, ih _ _ (by omega)]
    by_cases h1 : k + 1 ≤ r.toNat ∧ r.toNat < k + 1 + bs.length
    · rw [if_pos h1, if_pos (by simp; omega)]
      obtain ⟨d, hd⟩ : ∃ d, r.toNat = k + 1 + d := ⟨r.toNat - (k + 1), by omega⟩
      rw [hd, show k + 1 + d - k = d + 1 by omega, show k + 1 + d - (k + 1) = d by omega]
      simp
    · rw [if_neg h1, State.getV_setV]
      by_cases h2 : BitVec.ofNat 4 k = r
      · have hk : r.toNat = k := by
          rw [← h2, BitVec.toNat_ofNat, Nat.mod_eq_of_lt (by omega)]
        rw [if_pos h2, if_pos (by simp; omega), hk]; simp
      · have hk : r.toNat ≠ k := by
          intro hk; apply h2
          apply BitVec.eq_of_toNat_eq
          rw [BitVec.toNat_ofNat, Nat.mod_eq_of_lt (by omega), hk]
        rw [if_neg h2, if_neg (by simp; omega)]

/-! ## CALL, RET, SPRITE: the whole answer -/

theorem execCall_eq (nnn : Addr) : execCall nnn s = .next
    (if s.sp = s.cfg.stackCapacity then s.setHalt (some ⟨.stackOverflow, s.pc⟩)
     else (s.setStack (s.sp + 1) (s.stack.set s.sp (s.pc + 2))).setPc (addrWord nnn)) := by
  unfold execCall State.push; split <;> rfl

theorem execRet_eq : execRet s = .next
    (if s.sp = 0 then s.setHalt (some ⟨.stackUnderflow, s.pc⟩)
     else (s.setStack (s.sp - 1) s.stack).setPc (s.stack.getD (s.sp - 1) 0)) := by
  unfold execRet State.pop; split <;> rfl

theorem execSprite_eq (x : Reg) : execSprite x s = .next
    (if 0xF < (s.getV x).toNat then s.setHalt (some ⟨.spriteDigitRange (s.getV x), s.pc⟩)
     else (s.setI (glyphAddress s.cfg (s.getV x))).setPc (s.pc + 2)) := by
  unfold execSprite; split <;> rfl

/-! ## The memory transfers: effect and fault -/

@[simp] theorem bcdDigits_length (v : Byte) : (bcdDigits v).length = 3 := rfl

theorem execBcd_ok (x : Reg) (h : s.Accessible 3) : execBcd x s = .next
    ((s.setMem (Memory.store s.cfg s.mem s.i.toNat (bcdDigits (s.getV x)))).setPc (s.pc + 2)) := by
  unfold execBcd
  rw [State.effective_zero, State.writeBytes_ok s (bs := bcdDigits _) fun k hk => h k hk]; rfl

theorem execRdump_ok (x : Reg) (h : s.Accessible (x.toNat + 1)) : execRdump x s = .next
    (((s.setMem (Memory.store s.cfg s.mem s.i.toNat (s.dumpedV (x.toNat + 1)))).setI
      (s.i + BitVec.ofNat 16 (x.toNat + 1))).setPc (s.pc + 2)) := by
  unfold execRdump
  rw [State.effective_zero, State.writeBytes_ok s (bs := s.dumpedV (transferCount x))
    fun k hk => h k (by simpa [transferCount] using hk)]; rfl

theorem execRload_ok (x : Reg) (h : s.Accessible (x.toNat + 1)) : execRload x s = .next
    (((s.loadV 0 ((List.range (x.toNat + 1)).map fun k => s.byte (s.i.toNat + k))).setI
      (s.i + BitVec.ofNat 16 (x.toNat + 1))).setPc (s.pc + 2)) := by
  unfold execRload
  rw [State.effective_zero, State.readBytes_ok s (n := transferCount x) fun k hk => h k hk]
  simp [Except.map, State.bumpI, transferCount]

theorem execDraw_ok (x y : Reg) (n : Nibble) (h : s.Accessible n.toNat) : execDraw x y n s = .next
    (s.drawRows (s.getV x) (s.getV y) ((List.range n.toNat).map fun k => s.byte (s.i.toNat + k))) := by
  unfold execDraw
  rw [State.effective_zero, State.readBytes_ok s fun k hk => h k hk]; rfl

/-- The fault of a transfer: that of its first failing access, with nothing written (R591). -/
theorem exec_transfer_error (i : Instr) {k : Nat} {f : FaultKind} (hk : k < transferBytes i)
    (h : ∀ j, j < k → progCheck s.cfg (s.i.toNat + j) = none)
    (hf : progCheck s.cfg (s.i.toNat + k) = some f) :
    (∀ x y n, i = .draw x y n → s.readBytes n.toNat (s.effective 0) = .error f) ∧
    (∀ x, i = .bcd x → s.writeBytes (s.effective 0) (bcdDigits (s.getV x)) = .error f) ∧
    (∀ x, i = .rdump x →
      s.writeBytes (s.effective 0) (s.dumpedV (transferCount x)) = .error f) ∧
    (∀ x, i = .rload x → s.readBytes (transferCount x) (s.effective 0) = .error f) := by
  refine ⟨?_, ?_, ?_, ?_⟩ <;> intros <;> subst_vars
  · exact State.readBytes_error s hk h hf
  · exact State.writeBytes_error s (by simpa [transferBytes] using hk) h hf
  · exact State.writeBytes_error s (by simpa [transferBytes, transferCount] using hk) h hf
  · exact State.readBytes_error s hk h hf

/-- A transfer has access to all its bytes or faults at a first one. -/
theorem State.accessible_or_fault (n : Nat) : s.Accessible n ∨
    ∃ k f, k < n ∧ (∀ j, j < k → progCheck s.cfg (s.i.toNat + j) = none) ∧
      progCheck s.cfg (s.i.toNat + k) = some f :=
  accessible_or_first_fault s.cfg s.i.toNat n

/-- The last byte of an accessible transfer lies below the reserved region. -/
theorem State.Accessible.lt {s : State} {n : Nat} (h : s.Accessible n) {k : Nat} (hk : k < n) :
    s.i.toNat + k < s.cfg.reservedBase ∧ s.i.toNat + k < memSize :=
  ⟨(progCheck_eq_none.mp (h k hk)).2, (progCheck_eq_none.mp (h k hk)).1⟩

end Sys2Proof.Machine
end

