-- ==== Sys2Proof/Laws/Exec.lean ====
section
/-! SUPPORT. The whole answer of the instructions that branch: everything each one can do, so that a later
proof cites it and never unfolds the meaning. -/

namespace Sys2Proof.Machine

variable {s t : State}

/-- A check only fails in the two ways of R220. -/
theorem progCheck_some {c : Config} {a : Nat} {f : FaultKind} (h : progCheck c a = some f) :
    (f = .addressFault a ∧ memSize ≤ a) ∨ (f = .reservedAccess a ∧ c.reservedBase ≤ a ∧ a < memSize) := by
  unfold progCheck at h
  split at h
  · next h1 => exact .inl ⟨(Option.some.inj h).symm, h1⟩
  · next h1 =>
    split at h
    · next h2 => exact .inr ⟨(Option.some.inj h).symm, h2, by omega⟩
    · cases h

/-- CLS is one update of memory, then the advance (R710). -/
theorem execCls_eq (s : State) :
    execCls s = .next ((s.setMem (clearFrame s.cfg s.mem 256)).setPc (s.pc + 2)) := by
  simp only [execCls, State.advance_eq, State.setMem_pc, frameBytes]

/-- What DRAW leaves, in one update each of memory, VF and pc (R720). -/
theorem State.drawRows_eq (s : State) (px py : Byte) (rows : List Byte) :
    s.drawRows px py rows =
      ((s.setMem (blit s.cfg s.mem (spritePixels px.toNat py.toNat rows)).mem).setV flagReg
        (flagOf (blit s.cfg s.mem (spritePixels px.toNat py.toNat rows)).hit)).setPc (s.pc + 2) := rfl

/-- DRAW (R720). -/
theorem execDraw_next {x y : Reg} {n : Nibble} (h : execDraw x y n s = .next t) :
    (s.Accessible n.toNat ∧
      t = s.drawRows (s.getV x) (s.getV y) ((List.range n.toNat).map fun k => s.byte (s.i.toNat + k))) ∨
    ∃ f, s.FirstFault n.toNat f ∧ t = s.setHalt (some ⟨f, s.pc⟩) := by
  rcases s.accessible_or_fault n.toNat with ha | ⟨k, f, hk, hj, hf⟩
  · rw [execDraw_ok s x y n ha] at h
    exact .inl ⟨ha, (Host.Outcome.next.inj h).symm⟩
  · have he := (exec_transfer_error s (.draw x y n) hk hj hf).1 x y n rfl
    simp only [execDraw, he, Except.map, State.settle_error] at h
    exact .inr ⟨f, ⟨k, hk, hj, hf⟩, (Host.Outcome.next.inj h).symm⟩

/-- BCD (R620). -/
theorem execBcd_next {x : Reg} (h : execBcd x s = .next t) :
    (s.Accessible 3 ∧
      t = (s.setMem (Memory.store s.cfg s.mem s.i.toNat (bcdDigits (s.getV x)))).setPc (s.pc + 2)) ∨
    ∃ f, s.FirstFault 3 f ∧ t = s.setHalt (some ⟨f, s.pc⟩) := by
  rcases s.accessible_or_fault 3 with ha | ⟨k, f, hk, hj, hf⟩
  · rw [execBcd_ok s x ha] at h
    exact .inl ⟨ha, (Host.Outcome.next.inj h).symm⟩
  · have he := (exec_transfer_error s (.bcd x) hk hj hf).2.1 x rfl
    simp only [execBcd, he, Except.map, State.settle_error] at h
    exact .inr ⟨f, ⟨k, hk, hj, hf⟩, (Host.Outcome.next.inj h).symm⟩

/-- RDUMP (R630). -/
theorem execRdump_next {x : Reg} (h : execRdump x s = .next t) :
    (s.Accessible (x.toNat + 1) ∧
      t = ((s.setMem (Memory.store s.cfg s.mem s.i.toNat (s.dumpedV (x.toNat + 1)))).setI
        (s.i + BitVec.ofNat 16 (x.toNat + 1))).setPc (s.pc + 2)) ∨
    ∃ f, s.FirstFault (x.toNat + 1) f ∧ t = s.setHalt (some ⟨f, s.pc⟩) := by
  rcases s.accessible_or_fault (x.toNat + 1) with ha | ⟨k, f, hk, hj, hf⟩
  · rw [execRdump_ok s x ha] at h
    exact .inl ⟨ha, (Host.Outcome.next.inj h).symm⟩
  · have he := (exec_transfer_error s (.rdump x) hk hj hf).2.2.1 x rfl
    simp only [execRdump, he, Except.map, State.settle_error] at h
    exact .inr ⟨f, ⟨k, hk, hj, hf⟩, (Host.Outcome.next.inj h).symm⟩

/-- RLOAD (R640). -/
theorem execRload_next {x : Reg} (h : execRload x s = .next t) :
    (s.Accessible (x.toNat + 1) ∧
      t = ((s.loadV 0 ((List.range (x.toNat + 1)).map fun k => s.byte (s.i.toNat + k))).setI
        (s.i + BitVec.ofNat 16 (x.toNat + 1))).setPc (s.pc + 2)) ∨
    ∃ f, s.FirstFault (x.toNat + 1) f ∧ t = s.setHalt (some ⟨f, s.pc⟩) := by
  rcases s.accessible_or_fault (x.toNat + 1) with ha | ⟨k, f, hk, hj, hf⟩
  · rw [execRload_ok s x ha] at h
    exact .inl ⟨ha, (Host.Outcome.next.inj h).symm⟩
  · have he := (exec_transfer_error s (.rload x) hk hj hf).2.2.2 x rfl
    simp only [execRload, he, Except.map, State.settle_error] at h
    exact .inr ⟨f, ⟨k, hk, hj, hf⟩, (Host.Outcome.next.inj h).symm⟩

/-- CALL, RET, SPRITE: the answer as a condition (R411, R412, R610). -/
theorem execCall_next {nnn : Addr} (h : execCall nnn s = .next t) :
    (s.sp = s.cfg.stackCapacity ∧ t = s.setHalt (some ⟨.stackOverflow, s.pc⟩)) ∨
    (s.sp ≠ s.cfg.stackCapacity ∧
      t = (s.setStack (s.sp + 1) (s.stack.set s.sp (s.pc + 2))).setPc (addrWord nnn)) := by
  rw [execCall_eq] at h
  have := Host.Outcome.next.inj h
  split at this
  · next hc => exact .inl ⟨hc, this.symm⟩
  · next hc => exact .inr ⟨hc, this.symm⟩

theorem execRet_next (h : execRet s = .next t) :
    (s.sp = 0 ∧ t = s.setHalt (some ⟨.stackUnderflow, s.pc⟩)) ∨
    (s.sp ≠ 0 ∧ t = (s.setStack (s.sp - 1) s.stack).setPc (s.stack.getD (s.sp - 1) 0)) := by
  rw [execRet_eq] at h
  have := Host.Outcome.next.inj h
  split at this
  · next hc => exact .inl ⟨hc, this.symm⟩
  · next hc => exact .inr ⟨hc, this.symm⟩

theorem execSprite_next {x : Reg} (h : execSprite x s = .next t) :
    (0xF < (s.getV x).toNat ∧ t = s.setHalt (some ⟨.spriteDigitRange (s.getV x), s.pc⟩)) ∨
    ((s.getV x).toNat ≤ 0xF ∧ t = (s.setI (glyphAddress s.cfg (s.getV x))).setPc (s.pc + 2)) := by
  rw [execSprite_eq] at h
  have := Host.Outcome.next.inj h
  split at this
  · next hc => exact .inl ⟨hc, this.symm⟩
  · next hc => exact .inr ⟨by omega, this.symm⟩

/-- Everything a step can do (R400): the machine was running, and it faulted in phase 2 or executed. -/
theorem step_next (h : step s = .next t) : s.halt = none ∧
    ((∃ k, s.fetchInstr = .error k ∧ t = s.beginStep.setHalt (some ⟨k, s.pc⟩)) ∨
      ∃ i, s.fetchInstr = .ok i ∧ exec i s.beginStep = .next t) := by
  unfold step at h
  cases hh : s.halt with
  | some r => simp [hh] at h
  | none =>
    refine ⟨rfl, ?_⟩
    simp only [hh, State.beginStep_fetchInstr] at h
    cases hf : s.fetchInstr with
    | error k =>
      simp only [hf] at h
      exact .inl ⟨k, rfl, by rw [← Host.Outcome.next.inj h]; simp⟩
    | ok i =>
      simp only [hf] at h
      exact .inr ⟨i, rfl, h⟩

end Sys2Proof.Machine
end

