-- ==== Sys2Proof/Laws/Frames.lean ====
section
/-! SUPPORT. The frames of Sys2Proof/Safety.lean under the basic updates, and operands as numbers. -/

namespace Sys2Proof.Machine

variable {s t : State}

/-! ## What the updates of V, I, pc, memory and the host's answers leave alone -/

theorem State.RestKept.refl (s : State) : State.RestKept s s :=
  ⟨⟨rfl, rfl⟩, ⟨rfl, rfl, rfl, rfl⟩, ⟨rfl, rfl⟩⟩

theorem State.RestKept.setV (h : State.RestKept s t) (x : Reg) (b : Byte) :
    State.RestKept s (t.setV x b) :=
  ⟨⟨h.stack.sp, h.stack.stack⟩, ⟨h.timers.dt, h.timers.st, h.timers.tRef, h.timers.ticks⟩,
    ⟨h.control.halt, h.control.cfg⟩⟩

theorem State.RestKept.setI (h : State.RestKept s t) (w : Word) : State.RestKept s (t.setI w) :=
  ⟨⟨h.stack.sp, h.stack.stack⟩, ⟨h.timers.dt, h.timers.st, h.timers.tRef, h.timers.ticks⟩,
    ⟨h.control.halt, h.control.cfg⟩⟩

theorem State.RestKept.setPc (h : State.RestKept s t) (w : Word) : State.RestKept s (t.setPc w) :=
  ⟨⟨h.stack.sp, h.stack.stack⟩, ⟨h.timers.dt, h.timers.st, h.timers.tRef, h.timers.ticks⟩,
    ⟨h.control.halt, h.control.cfg⟩⟩

theorem State.RestKept.setMem (h : State.RestKept s t) (m : Memory) : State.RestKept s (t.setMem m) :=
  ⟨⟨h.stack.sp, h.stack.stack⟩, ⟨h.timers.dt, h.timers.st, h.timers.tRef, h.timers.ticks⟩,
    ⟨h.control.halt, h.control.cfg⟩⟩

theorem State.RestKept.setHost (h : State.RestKept s t) (i : HostInputs) :
    State.RestKept s (t.setHost i) :=
  ⟨⟨h.stack.sp, h.stack.stack⟩, ⟨h.timers.dt, h.timers.st, h.timers.tRef, h.timers.ticks⟩,
    ⟨h.control.halt, h.control.cfg⟩⟩

theorem State.RestKept.loadV (h : State.RestKept s t) (k : Nat) (bs : List Byte) :
    State.RestKept s (t.loadV k bs) := by
  induction bs generalizing t k with
  | nil => exact h
  | cons b bs ih => exact ih (h.setV _ b) _

theorem State.restKept_takeRand (s : State) : State.RestKept s s.takeRand := by
  rw [State.takeRand_eq]; exact (State.RestKept.refl s).setHost _

theorem State.restKept_takeKey (s : State) : State.RestKept s s.takeKey := by
  rw [State.takeKey_eq]; exact (State.RestKept.refl s).setHost _

theorem State.restKept_takeAwaitedKey (s : State) : State.RestKept s s.takeAwaitedKey := by
  rw [State.takeAwaitedKey_eq]; exact (State.RestKept.refl s).setHost _

/-! ## Registers -/

theorem State.regsKeptBut_refl (named : List Reg) (s : State) : State.RegsKeptBut named s s :=
  fun _ _ => rfl

/-- A register write inside the named registers. -/
theorem State.RegsKeptBut.setV {named : List Reg} (h : State.RegsKeptBut named s t) {x : Reg} (b : Byte)
    (hx : x ∈ named) : State.RegsKeptBut named s (t.setV x b) := by
  intro r hr
  have hne : x ≠ r := fun he => hr (he ▸ hx)
  exact (State.getV_setV_other t b hne).trans (h r hr)

theorem State.RegsKeptBut.setPc {named : List Reg} (h : State.RegsKeptBut named s t) (w : Word) :
    State.RegsKeptBut named s (t.setPc w) := h

theorem State.RegsKeptBut.setMem {named : List Reg} (h : State.RegsKeptBut named s t) (m : Memory) :
    State.RegsKeptBut named s (t.setMem m) := h

/-! ## Only pc moves -/

theorem State.onlyPcMoves_setPc (s : State) (w : Word) : State.OnlyPcMoves s (s.setPc w) :=
  ⟨fun _ _ => rfl, rfl, fun _ => rfl, (State.RestKept.refl s).setPc w⟩

theorem State.onlyPcMoves_takeKey_setPc (s : State) (w : Word) :
    State.OnlyPcMoves s (s.takeKey.setPc w) :=
  ⟨fun _ _ => by simp, by simp, fun _ => by simp, (State.restKept_takeKey s).setPc w⟩

/-! ## The key that ends the wait of a GKEY -/

/-- Answers above 0xF are ignored (R863). -/
theorem keysFromTheFirst_append {ignored : List Byte} (h : ∀ b ∈ ignored, 0xF < b.toNat) (rest : List Byte) :
    keysFromTheFirst (ignored ++ rest) = keysFromTheFirst rest := by
  induction ignored with
  | nil => rfl
  | cons b bs ih =>
    have hb := h b (by simp)
    rw [List.cons_append, keysFromTheFirst, if_neg (by omega), ih fun c hc => h c (by simp [hc])]

/-- What is left begins with a key. -/
theorem le_of_keysFromTheFirst {answers rest : List Byte} {k : Byte}
    (h : keysFromTheFirst answers = k :: rest) : k.toNat ≤ 0xF := by
  induction answers with
  | nil => cases h
  | cons b bs ih =>
    rw [keysFromTheFirst] at h
    split at h
    · next hb => cases h; exact hb
    · exact ih h

/-- The wait ends with a key 0x0..0xF, scripted or free (R663, R863). -/
theorem State.awaitedKey_le (s : State) : s.awaitedKey.toNat ≤ 0xF := by
  unfold State.awaitedKey
  split
  · rw [BitVec.toNat_setWidth]; omega
  · next h => exact le_of_keysFromTheFirst h

/-- A GKEY's draw leaves the clock and the random bytes to come alone (R404). -/
@[simp] theorem State.takeAwaitedKey_clock (s : State) : s.takeAwaitedKey.host.clock = s.host.clock := by
  unfold State.takeAwaitedKey; split <;> rfl

@[simp] theorem State.takeAwaitedKey_rands (s : State) : s.takeAwaitedKey.host.rands = s.host.rands := by
  unfold State.takeAwaitedKey; split <;> rfl

/-! ## Operands and results as numbers -/

@[simp] theorem addrWord_toNat (a : Addr) : (addrWord a).toNat = a.toNat := by
  simp only [addrWord, BitVec.toNat_setWidth]; omega

@[simp] theorem byteWord_toNat (b : Byte) : (byteWord b).toNat = b.toNat := by
  simp only [byteWord, BitVec.toNat_setWidth]; omega

theorem shiftedOutRight_toNat (b : Byte) : (shiftedOutRight b).toNat = b.toNat % 2 := by
  rw [shiftedOutRight, BitVec.toNat_and]; exact Nat.and_one_is_mod _

theorem shiftedOutLeft_toNat (b : Byte) : (shiftedOutLeft b).toNat = b.toNat / 128 := by
  have h := b.isLt
  rw [shiftedOutLeft, BitVec.toNat_and, BitVec.toNat_ushiftRight, Nat.shiftRight_eq_div_pow]
  refine (Nat.and_one_is_mod _).trans ?_
  omega

@[simp] theorem flagOf_eq_one {c : Bool} : flagOf c = 1 ↔ c = true := by cases c <;> decide

theorem flagOf_zero_or_one (c : Bool) : flagOf c = 0 ∨ flagOf c = 1 := by cases c <;> decide

/-- The flag is written last, so VF holds it whatever the destination was (R104, R531). -/
@[simp] theorem State.getV_setFlag_flagReg (s : State) (f : Byte) : (s.setFlag f).getV flagReg = f :=
  State.getV_setV_same s flagReg f

theorem State.getV_setFlag_other (s : State) (f : Byte) {r : Reg} (h : r ≠ flagReg) :
    (s.setFlag f).getV r = s.getV r :=
  State.getV_setV_other s f (Ne.symm h)

end Sys2Proof.Machine
end

