-- ==== Sys2Proof/Laws/PerInstr.lean ====
section
/-! SUPPORT. Statements made instruction by instruction. MatchesTable: the word of an instruction selects
the row of spec/30_encoding.md R321 that has its mnemonic, and the instruction is well formed. -/

namespace Sys2Proof.Laws.MatchesTable

/-- The encoded word selects the instruction's own row of the opcode table. -/
def Statement (i : Instr) : Prop :=
  i.wellFormed = true ∧ ∃ r ∈ opcodeTable, r.mnemonic = i.mnemonic ∧ r.selectedBy (encode i) = true

theorem and_ones_nibble (x : Nibble) : x &&& 15#4 = x := BitVec.and_allOnes

theorem and_ones_byte (x : Byte) : x &&& 255#8 = x := BitVec.and_allOnes

/-- A word's high nibble, the part a mask 0xF000 keeps. -/
theorem mask_family (w : Word) : w &&& 0xF000#16 = wordAddr (fieldO w) 0 := by
  have h : w &&& 0xF000#16 = wordAddr (fieldO w) (fieldNnn w) &&& wordAddr 0xF#4 0 := by
    rw [wordAddr_fields]; rfl
  rw [h]; unfold wordAddr
  exact (BitVec.and_append).trans (by simp [and_ones_nibble])

/-- The family and the lowest nibble, the part a mask 0xF00F keeps. -/
theorem mask_nibble (w : Word) : w &&& 0xF00F#16 = wordXyn (fieldO w) 0 0 (fieldN w) := by
  have h : w &&& 0xF00F#16 =
      wordXyn (fieldO w) (fieldX w) (fieldY w) (fieldN w) &&& wordXyn 0xF#4 0 0 0xF#4 := by
    rw [wordXyn_fields]; rfl
  rw [h]; unfold wordXyn
  refine (BitVec.and_append).trans ?_
  rw [BitVec.and_append, BitVec.and_append]
  simp [and_ones_nibble]

/-- The family and the lowest byte, the part a mask 0xF0FF keeps. -/
theorem mask_byte (w : Word) : w &&& 0xF0FF#16 = wordXkk (fieldO w) 0 (fieldKk w) := by
  have h : w &&& 0xF0FF#16 =
      wordXkk (fieldO w) (fieldX w) (fieldKk w) &&& wordXkk 0xF#4 0 0xFF#8 := by
    rw [wordXkk_fields]; rfl
  rw [h]; unfold wordXkk
  refine (BitVec.and_append).trans ?_
  rw [BitVec.and_append]
  simp [and_ones_nibble, and_ones_byte]

theorem cls : Statement (Instr.cls) :=
  ⟨Instr.wellFormed_all _, ⟨"CLS", 0x00E0, 0xFFFF⟩, by decide, rfl, by decide⟩

theorem ret : Statement (Instr.ret) :=
  ⟨Instr.wellFormed_all _, ⟨"RET", 0x00EE, 0xFFFF⟩, by decide, rfl, by decide⟩

theorem jmp (nnn : Addr) : Statement (Instr.jmp nnn) :=
  ⟨Instr.wellFormed_all _, ⟨"JMP", 0x1000, 0xF000⟩, by decide, rfl, by simp [OpcodeRow.selectedBy, encode, mask_family]; decide⟩

theorem call (nnn : Addr) : Statement (Instr.call nnn) :=
  ⟨Instr.wellFormed_all _, ⟨"CALL", 0x2000, 0xF000⟩, by decide, rfl, by simp [OpcodeRow.selectedBy, encode, mask_family]; decide⟩

theorem skipeq (x : Reg) (kk : Byte) : Statement (Instr.skipeq x kk) :=
  ⟨Instr.wellFormed_all _, ⟨"SKIPEQ", 0x3000, 0xF000⟩, by decide, rfl, by simp [OpcodeRow.selectedBy, encode, mask_family]; decide⟩

theorem skipneq (x : Reg) (kk : Byte) : Statement (Instr.skipneq x kk) :=
  ⟨Instr.wellFormed_all _, ⟨"SKIPNEQ", 0x4000, 0xF000⟩, by decide, rfl, by simp [OpcodeRow.selectedBy, encode, mask_family]; decide⟩

theorem skipreq (x y : Reg) : Statement (Instr.skipreq x y) :=
  ⟨Instr.wellFormed_all _, ⟨"SKIPREQ", 0x5000, 0xF00F⟩, by decide, rfl, by simp [OpcodeRow.selectedBy, encode, mask_nibble]; decide⟩

theorem mov (x : Reg) (kk : Byte) : Statement (Instr.mov x kk) :=
  ⟨Instr.wellFormed_all _, ⟨"MOV", 0x6000, 0xF000⟩, by decide, rfl, by simp [OpcodeRow.selectedBy, encode, mask_family]; decide⟩

theorem add (x : Reg) (kk : Byte) : Statement (Instr.add x kk) :=
  ⟨Instr.wellFormed_all _, ⟨"ADD", 0x7000, 0xF000⟩, by decide, rfl, by simp [OpcodeRow.selectedBy, encode, mask_family]; decide⟩

theorem movr (x y : Reg) : Statement (Instr.movr x y) :=
  ⟨Instr.wellFormed_all _, ⟨"MOVR", 0x8000, 0xF00F⟩, by decide, rfl, by simp [OpcodeRow.selectedBy, encode, mask_nibble]; decide⟩

theorem or (x y : Reg) : Statement (Instr.or x y) :=
  ⟨Instr.wellFormed_all _, ⟨"OR", 0x8001, 0xF00F⟩, by decide, rfl, by simp [OpcodeRow.selectedBy, encode, mask_nibble]; decide⟩

theorem and (x y : Reg) : Statement (Instr.and x y) :=
  ⟨Instr.wellFormed_all _, ⟨"AND", 0x8002, 0xF00F⟩, by decide, rfl, by simp [OpcodeRow.selectedBy, encode, mask_nibble]; decide⟩

theorem xor (x y : Reg) : Statement (Instr.xor x y) :=
  ⟨Instr.wellFormed_all _, ⟨"XOR", 0x8003, 0xF00F⟩, by decide, rfl, by simp [OpcodeRow.selectedBy, encode, mask_nibble]; decide⟩

theorem addr (x y : Reg) : Statement (Instr.addr x y) :=
  ⟨Instr.wellFormed_all _, ⟨"ADDR", 0x8004, 0xF00F⟩, by decide, rfl, by simp [OpcodeRow.selectedBy, encode, mask_nibble]; decide⟩

theorem subr (x y : Reg) : Statement (Instr.subr x y) :=
  ⟨Instr.wellFormed_all _, ⟨"SUBR", 0x8005, 0xF00F⟩, by decide, rfl, by simp [OpcodeRow.selectedBy, encode, mask_nibble]; decide⟩

theorem sr (x y : Reg) : Statement (Instr.sr x y) :=
  ⟨Instr.wellFormed_all _, ⟨"SR", 0x8006, 0xF00F⟩, by decide, rfl, by simp [OpcodeRow.selectedBy, encode, mask_nibble]; decide⟩

theorem rsub (x y : Reg) : Statement (Instr.rsub x y) :=
  ⟨Instr.wellFormed_all _, ⟨"RSUB", 0x8007, 0xF00F⟩, by decide, rfl, by simp [OpcodeRow.selectedBy, encode, mask_nibble]; decide⟩

theorem sl (x y : Reg) : Statement (Instr.sl x y) :=
  ⟨Instr.wellFormed_all _, ⟨"SL", 0x800E, 0xF00F⟩, by decide, rfl, by simp [OpcodeRow.selectedBy, encode, mask_nibble]; decide⟩

theorem skiprneq (x y : Reg) : Statement (Instr.skiprneq x y) :=
  ⟨Instr.wellFormed_all _, ⟨"SKIPRNEQ", 0x9000, 0xF00F⟩, by decide, rfl, by simp [OpcodeRow.selectedBy, encode, mask_nibble]; decide⟩

theorem si (nnn : Addr) : Statement (Instr.si nnn) :=
  ⟨Instr.wellFormed_all _, ⟨"SI", 0xA000, 0xF000⟩, by decide, rfl, by simp [OpcodeRow.selectedBy, encode, mask_family]; decide⟩

theorem pcn (nnn : Addr) : Statement (Instr.pcn nnn) :=
  ⟨Instr.wellFormed_all _, ⟨"PCN", 0xB000, 0xF000⟩, by decide, rfl, by simp [OpcodeRow.selectedBy, encode, mask_family]; decide⟩

theorem rand (x : Reg) (kk : Byte) : Statement (Instr.rand x kk) :=
  ⟨Instr.wellFormed_all _, ⟨"RAND", 0xC000, 0xF000⟩, by decide, rfl, by simp [OpcodeRow.selectedBy, encode, mask_family]; decide⟩

theorem draw (x y : Reg) (n : Nibble) : Statement (Instr.draw x y n) :=
  ⟨Instr.wellFormed_all _, ⟨"DRAW", 0xD000, 0xF000⟩, by decide, rfl, by simp [OpcodeRow.selectedBy, encode, mask_family]; decide⟩

theorem skipkeq (x : Reg) : Statement (Instr.skipkeq x) :=
  ⟨Instr.wellFormed_all _, ⟨"SKIPKEQ", 0xE09E, 0xF0FF⟩, by decide, rfl, by simp [OpcodeRow.selectedBy, encode, mask_byte]; decide⟩

theorem skipkneq (x : Reg) : Statement (Instr.skipkneq x) :=
  ⟨Instr.wellFormed_all _, ⟨"SKIPKNEQ", 0xE0A1, 0xF0FF⟩, by decide, rfl, by simp [OpcodeRow.selectedBy, encode, mask_byte]; decide⟩

theorem gdelay (x : Reg) : Statement (Instr.gdelay x) :=
  ⟨Instr.wellFormed_all _, ⟨"GDELAY", 0xF007, 0xF0FF⟩, by decide, rfl, by simp [OpcodeRow.selectedBy, encode, mask_byte]; decide⟩

theorem gkey (x : Reg) : Statement (Instr.gkey x) :=
  ⟨Instr.wellFormed_all _, ⟨"GKEY", 0xF00A, 0xF0FF⟩, by decide, rfl, by simp [OpcodeRow.selectedBy, encode, mask_byte]; decide⟩

theorem sdelay (x : Reg) : Statement (Instr.sdelay x) :=
  ⟨Instr.wellFormed_all _, ⟨"SDELAY", 0xF015, 0xF0FF⟩, by decide, rfl, by simp [OpcodeRow.selectedBy, encode, mask_byte]; decide⟩

theorem ssnd (x : Reg) : Statement (Instr.ssnd x) :=
  ⟨Instr.wellFormed_all _, ⟨"SSND", 0xF018, 0xF0FF⟩, by decide, rfl, by simp [OpcodeRow.selectedBy, encode, mask_byte]; decide⟩

theorem addi (x : Reg) : Statement (Instr.addi x) :=
  ⟨Instr.wellFormed_all _, ⟨"ADDI", 0xF01E, 0xF0FF⟩, by decide, rfl, by simp [OpcodeRow.selectedBy, encode, mask_byte]; decide⟩

theorem sprite (x : Reg) : Statement (Instr.sprite x) :=
  ⟨Instr.wellFormed_all _, ⟨"SPRITE", 0xF029, 0xF0FF⟩, by decide, rfl, by simp [OpcodeRow.selectedBy, encode, mask_byte]; decide⟩

theorem bcd (x : Reg) : Statement (Instr.bcd x) :=
  ⟨Instr.wellFormed_all _, ⟨"BCD", 0xF033, 0xF0FF⟩, by decide, rfl, by simp [OpcodeRow.selectedBy, encode, mask_byte]; decide⟩

theorem rdump (x : Reg) : Statement (Instr.rdump x) :=
  ⟨Instr.wellFormed_all _, ⟨"RDUMP", 0xF055, 0xF0FF⟩, by decide, rfl, by simp [OpcodeRow.selectedBy, encode, mask_byte]; decide⟩

theorem rload (x : Reg) : Statement (Instr.rload x) :=
  ⟨Instr.wellFormed_all _, ⟨"RLOAD", 0xF065, 0xF0FF⟩, by decide, rfl, by simp [OpcodeRow.selectedBy, encode, mask_byte]; decide⟩

end Sys2Proof.Laws.MatchesTable
end

