-- ==== Sys2Proof/Laws/Timers.lean ====
section
/-! SUPPORT. The laws of the timer countdown, in natural numbers. -/

namespace Sys2Proof.Machine

/-- The ticks owed are a truncated difference (R842). -/
theorem owedTicks_eq (ticks expected : Nat) : owedTicks ticks expected = expected - ticks := by
  unfold owedTicks; split <;> omega

/-- A timer after a countdown, floored at 0 (R843). -/
@[simp] theorem countDown_toNat (t : Byte) (owed : Nat) : (countDown t owed).toNat = t.toNat - owed := by
  have := t.isLt
  simp only [countDown, BitVec.toNat_ofNat]
  omega

theorem countDown_countDown (t : Byte) (a b : Nat) : countDown (countDown t a) b = countDown t (a + b) := by
  apply BitVec.eq_of_toNat_eq; simp; omega

theorem State.reconcile_dt (s : State) (now : Nat) :
    (s.reconcile now).dt = countDown s.dt (expectedTicks s.tRef now - s.ticks) := by
  simp [State.reconcile, owedTicks_eq]

theorem State.reconcile_st (s : State) (now : Nat) :
    (s.reconcile now).st = countDown s.st (expectedTicks s.tRef now - s.ticks) := by
  simp [State.reconcile, owedTicks_eq]

theorem State.reconcile_ticks (s : State) (now : Nat) :
    (s.reconcile now).ticks = max s.ticks (expectedTicks s.tRef now) := rfl

/-- Later readings owe at least as many ticks (R841). -/
theorem expectedTicks_mono (tRef : Nat) {a b : Nat} (h : a ≤ b) :
    expectedTicks tRef a ≤ expectedTicks tRef b := by
  unfold expectedTicks
  split
  · rw [if_pos (by omega)]
    exact Nat.div_le_div_right (by omega)
  · omega

end Sys2Proof.Machine
end

