-- ==== Sys2Proof/Machine/Text.lean ====
section
/-! DEFINITION. `to_text`, the assembler-like form of an instruction (spec/30_encoding.md R350, R351;
spec/00_scope.md R47). It has no effect on execution. -/

namespace Sys2Proof.Machine

/-- One upper-case hex digit (R350). -/
def hexDigit (n : Nat) : String :=
  match n with
  | 0 => "0" | 1 => "1" | 2 => "2" | 3 => "3" | 4 => "4" | 5 => "5" | 6 => "6" | 7 => "7"
  | 8 => "8" | 9 => "9" | 10 => "A" | 11 => "B" | 12 => "C" | 13 => "D" | 14 => "E" | _ => "F"

/-- A register name, `V` and one digit. -/
def regText (x : Reg) : String := "V" ++ hexDigit x.toNat

/-- DRAW's row count, `#$` and one digit. -/
def nibbleText (n : Nibble) : String := "#$" ++ hexDigit n.toNat

/-- An 8-bit immediate, `#$` and two digits. -/
def byteText (b : Byte) : String := "#$" ++ hexDigit (b.toNat / 16) ++ hexDigit (b.toNat % 16)

/-- An address, `$` and three digits. -/
def addrText (a : Addr) : String :=
  "$" ++ hexDigit (a.toNat / 256) ++ hexDigit (a.toNat / 16 % 16) ++ hexDigit (a.toNat % 16)

/-- The operand texts of an instruction, in the order of R351. -/
def operandTexts : Instr → List String
  | .cls => []
  | .ret => []
  | .jmp nnn => [addrText nnn]
  | .call nnn => [addrText nnn]
  | .skipeq x kk => [regText x, byteText kk]
  | .skipneq x kk => [regText x, byteText kk]
  | .skipreq x y => [regText x, regText y]
  | .mov x kk => [regText x, byteText kk]
  | .add x kk => [regText x, byteText kk]
  | .movr x y => [regText x, regText y]
  | .or x y => [regText x, regText y]
  | .and x y => [regText x, regText y]
  | .xor x y => [regText x, regText y]
  | .addr x y => [regText x, regText y]
  | .subr x y => [regText x, regText y]
  | .sr x y => [regText x, regText y]
  | .rsub x y => [regText x, regText y]
  | .sl x y => [regText x, regText y]
  | .skiprneq x y => [regText x, regText y]
  | .si nnn => [addrText nnn]
  | .pcn nnn => [addrText nnn]
  | .rand x kk => [regText x, byteText kk]
  | .draw x y n => [regText x, regText y, nibbleText n]
  | .skipkeq x => [regText x]
  | .skipkneq x => [regText x]
  | .gdelay x => [regText x]
  | .gkey x => [regText x]
  | .sdelay x => [regText x]
  | .ssnd x => [regText x]
  | .addi x => [regText x]
  | .sprite x => [regText x]
  | .bcd x => [regText x]
  | .rdump x => [regText x]
  | .rload x => [regText x]

/-- Operands separated by ", " (R350). -/
def joinOperands : List String → String
  | [] => ""
  | [a] => a
  | a :: rest => a ++ ", " ++ joinOperands rest

/-- `to_text`: the mnemonic alone, or the mnemonic, one space and the operands (R350). -/
def toText (i : Instr) : String :=
  match operandTexts i with
  | [] => i.mnemonic
  | texts => i.mnemonic ++ " " ++ joinOperands texts

end Sys2Proof.Machine
end

