-- ==== Sys2Proof/Tests/Slice0.lean ====
section
/-! SUPPORT. Small tests. Expected results are the worked examples and vectors of spec/95_test_vectors.md
(L1 to L3), the encodings of spec/30_encoding.md (R321, R351) and the examples of the instruction rules;
then a witness for the hypotheses of each obligation. -/

namespace Sys2Proof.Tests

open Sys2Proof.Machine

/-! ## Well-formedness: each check refuses an ill-formed term -/

theorem test_wf_register_index_16_is_refused : Operand.fits ⟨16, 4⟩ = false := by decide
theorem test_wf_immediate_256_is_refused : Operand.fits ⟨256, 8⟩ = false := by decide
theorem test_wf_address_4096_is_refused : Operand.fits ⟨4096, 12⟩ = false := by decide
theorem test_wf_widest_operands_fit :
    Operand.fits ⟨15, 4⟩ = true ∧ Operand.fits ⟨255, 8⟩ = true ∧ Operand.fits ⟨4095, 12⟩ = true := by decide
theorem test_wf_make_register_refuses_16 : makeRegister 16 = none ∧ makeRegister 15 = some 15 := by decide
theorem test_wf_instruction : (Instr.draw 0xF 0xF 0xF).wellFormed = true := by decide

/-- The defaults of R11 meet R11's constraints. -/
theorem test_wf_defaults : defaultConfig.WellFormed := by decide

theorem test_wf_stack_capacity_bounds :
    ¬ Config.WellFormed { defaultConfig with stackCapacity := 11 } ∧
    ¬ Config.WellFormed { defaultConfig with stackCapacity := 17 } := by decide
theorem test_wf_font_must_end_by_0x200 :
    ¬ Config.WellFormed { defaultConfig with fontBase := 0x1B1 } ∧
    Config.WellFormed { defaultConfig with fontBase := 0x1B0 } := by decide
theorem test_wf_font_data_is_80_bytes :
    ¬ Config.WellFormed { defaultConfig with fontData := fontLowDigits } := by decide
theorem test_wf_reserved_base_above_0x200 :
    ¬ Config.WellFormed { defaultConfig with reservedBase := 0x200 } := by decide
theorem test_wf_frame_base_in_the_reserved_region :
    ¬ Config.WellFormed { defaultConfig with frameBase := 0xE9F } ∧
    ¬ Config.WellFormed { defaultConfig with frameBase := 0xF01 } := by decide

theorem test_wf_memory_cells_rise : ¬ Memory.wf defaultConfig [(0x301, 1), (0x300, 1)] := by decide
theorem test_wf_memory_cells_are_not_repeated : ¬ Memory.wf defaultConfig [(0x300, 1), (0x300, 2)] := by decide
theorem test_wf_memory_lists_no_reset_byte :
    ¬ Memory.wf defaultConfig [(0x300, 0)] ∧ ¬ Memory.wf defaultConfig [(0x000, 0xF0)] := by decide
theorem test_wf_memory_ends_at_0xFFF : ¬ Memory.wf defaultConfig [(0x1000, 1)] := by decide

/-! ## Decoding: every constructor, its word written out from R321 and R351 -/

theorem test_decode_fixed_words : decode 0x00E0 = some .cls ∧ decode 0x00EE = some .ret := by decide
theorem test_decode_addresses :
    decode 0x1FFF = some (.jmp 0xFFF) ∧ decode 0x2300 = some (.call 0x300) ∧
    decode 0xA050 = some (.si 0x050) ∧ decode 0xBFFF = some (.pcn 0xFFF) := by decide
theorem test_decode_register_immediate :
    decode 0x3105 = some (.skipeq 1 0x05) ∧ decode 0x4105 = some (.skipneq 1 0x05) ∧
    decode 0x60FF = some (.mov 0 0xFF) ∧ decode 0x7001 = some (.add 0 0x01) ∧
    decode 0xC3A5 = some (.rand 3 0xA5) := by decide
theorem test_decode_register_skips :
    decode 0x5AB0 = some (.skipreq 0xA 0xB) ∧ decode 0x9340 = some (.skiprneq 3 4) := by decide
theorem test_decode_alu_logic :
    decode 0x8120 = some (.movr 1 2) ∧ decode 0x8121 = some (.or 1 2) ∧ decode 0x8122 = some (.and 1 2) ∧
    decode 0x8123 = some (.xor 1 2) := by decide
theorem test_decode_alu_arithmetic :
    decode 0x8FE4 = some (.addr 0xF 0xE) ∧ decode 0x8125 = some (.subr 1 2) ∧
    decode 0x8126 = some (.sr 1 2) ∧ decode 0x8127 = some (.rsub 1 2) ∧
    decode 0x812E = some (.sl 1 2) := by decide
theorem test_decode_draw : decode 0xD01F = some (.draw 0 1 0xF) := by decide
theorem test_decode_key_skips :
    decode 0xE39E = some (.skipkeq 3) ∧ decode 0xE3A1 = some (.skipkneq 3) := by decide
theorem test_decode_timer_and_key :
    decode 0xF307 = some (.gdelay 3) ∧ decode 0xF30A = some (.gkey 3) ∧ decode 0xF315 = some (.sdelay 3) ∧
    decode 0xF318 = some (.ssnd 3) := by decide
theorem test_decode_index_and_memory :
    decode 0xFA1E = some (.addi 0xA) ∧ decode 0xF329 = some (.sprite 3) ∧ decode 0xF333 = some (.bcd 3) ∧
    decode 0xF355 = some (.rdump 3) ∧ decode 0xF365 = some (.rload 3) := by decide

/-- L1.3, L1.11 and L2.1.1 to L2.1.11. -/
theorem test_decode_undefined_words :
    ([0x0000, 0x00E1, 0x01E0, 0x0123, 0x5AB1, 0x5AB5, 0x8008, 0x800F, 0x9341, 0xE09F, 0xF000, 0xF0FF,
      0xFFFF] : List Word).all (fun w => (decode w).isNone) = true := by decide

theorem test_decode_bytes_by_name :
    decodeBytes [0x12, 0x34, 0xAB] = .ok (.jmp 0x234, [0xAB]) ∧
    decodeBytes [0xFF, 0xFF] = .error (.undefinedWord 0xFFFF) ∧ decodeBytes [0x12] = .error .truncated := by
  decide
theorem test_decode_table_word :
    decodeTableWord 16 0xD015 = some (.draw 0 1 5) ∧ decodeTableWord 16 0x01E0 = none := by decide
theorem test_encode_words :
    encode (.draw 0 1 0xF) = 0xD01F ∧ encode (.skipkneq 3) = 0xE3A1 ∧ encode (.sl 1 2) = 0x812E ∧
    encode (.pcn 0xFFF) = 0xBFFF ∧ encode .ret = 0x00EE := by decide

/-- R350, R351, L2.1. -/
theorem test_text :
    toText .cls = "CLS" ∧ toText (.jmp 0xFFF) = "JMP $FFF" ∧ toText (.mov 0 0xFF) = "MOV V0, #$FF" ∧
    toText (.addr 0xF 0xE) = "ADDR VF, VE" ∧ toText (.draw 0 1 0xF) = "DRAW V0, V1, #$F" := by
  decide +kernel

/-! ## One step -/

/-- The reset state with the host's answers written down: `Now()` is 0 and then 1000, `RandByte()` is 0xA7,
`KeyAnswer()` is 0x0B. -/
def scripted : State :=
  State.reset.setHost { clock := [0, 1000], rands := [0xA7], keys := [0x0B], draws := 0 }

/-- The scripted reset state with one word at 0x200. -/
def placed (w : Nat) : State := scripted.withFetchWord 16 w

/-- The state after a step, for reading its fields. -/
def after (s : State) : State :=
  match step s with
  | .next t => t
  | .fault _ => s
  | .refused _ => s

/-- The word runs first after reset, whatever the host answers. -/
theorem test_runs_from_reset :
    (∃ t, step (State.reset.withFetchWord 16 0x00E0) = .next t) ∧
    (∃ t, step (State.reset.withFetchWord 16 0xE09E) = .next t) ∧
    (∃ t, step (State.reset.withFetchWord 16 0xF00A) = .next t) := ⟨⟨_, rfl⟩, ⟨_, rfl⟩, ⟨_, rfl⟩⟩

/-- L2.2.2: an odd target is taken. -/
theorem test_jmp : (after (placed 0x1201)).pc = 0x0201 := by decide
/-- R411's example and L2.2.5. -/
theorem test_call :
    (after (placed 0x2300)).pc = 0x0300 ∧ (after (placed 0x2300)).sp = 1 ∧
    (after (placed 0x2300)).stack[0]? = some 0x0202 := by decide
/-- L2.2.6, L2.8.5. -/
theorem test_call_overflow :
    (after ((placed 0x2300).setStack 16 (List.replicate 16 0x0202))).halt = some ⟨.stackOverflow, 0x0200⟩ := by
  decide
/-- R412's example. -/
theorem test_ret :
    (after ((placed 0x00EE).setStack 1 (0x0206 :: List.replicate 15 0))).pc = 0x0206 ∧
    (after ((placed 0x00EE).setStack 1 (0x0206 :: List.replicate 15 0))).sp = 0 := by decide
/-- L2.2.7. -/
theorem test_ret_underflow : (after (placed 0x00EE)).halt = some ⟨.stackUnderflow, 0x0200⟩ := by decide
/-- L2.2.8, L2.2.9. -/
theorem test_pcn :
    (after ((placed 0xB300).setV 0 0x04)).pc = 0x0304 ∧ (after ((placed 0xBFFF).setV 0 0xFF)).pc = 0x10FE := by
  decide

/-- L2.3.1, L2.3.2. -/
theorem test_skipeq :
    (after ((placed 0x3105).setV 1 0x05)).pc = 0x0204 ∧ (after ((placed 0x3105).setV 1 0x06)).pc = 0x0202 := by
  decide
/-- L2.3.4 and R451's example. -/
theorem test_skipneq :
    (after ((placed 0x4105).setV 1 0x05)).pc = 0x0202 ∧ (after ((placed 0x4105).setV 1 0x06)).pc = 0x0204 := by
  decide
/-- R452's example. -/
theorem test_skipreq :
    (after (((placed 0x5AB0).setV 0xA 0x10).setV 0xB 0x10)).pc = 0x0204 ∧
    (after ((placed 0x5AB0).setV 0xA 0x10)).pc = 0x0202 := by decide
/-- L2.3.6, L2.3.7. -/
theorem test_skiprneq :
    (after ((placed 0x9110).setV 1 0x07)).pc = 0x0202 ∧
    (after (((placed 0x9340).setV 3 0x01).setV 4 0x02)).pc = 0x0204 := by decide
/-- R454: the answer is 0x0B. -/
theorem test_skipkeq :
    (after ((placed 0xE39E).setV 3 0x0B)).pc = 0x0204 ∧ (after ((placed 0xE39E).setV 3 0x02)).pc = 0x0202 := by
  decide
/-- R455: the answer is 0x0B. -/
theorem test_skipkneq :
    (after ((placed 0xE3A1).setV 3 0x0B)).pc = 0x0202 ∧ (after ((placed 0xE3A1).setV 3 0x02)).pc = 0x0204 := by
  decide

/-- L2.4.1. -/
theorem test_mov : (after (placed 0x60FF)).getV 0 = 0xFF ∧ (after (placed 0x60FF)).pc = 0x0202 := by decide
/-- L2.4.2: no flag. -/
theorem test_add_wraps :
    (after (((placed 0x70FF).setV 0 0x01).setV 0xF 0x55)).getV 0 = 0x00 ∧
    (after (((placed 0x70FF).setV 0 0x01).setV 0xF 0x55)).getV 0xF = 0x55 := by decide
/-- R510's example. -/
theorem test_movr : (after ((placed 0x8120).setV 2 0x3C)).getV 1 = 0x3C := by decide
/-- L2.4.5. -/
theorem test_or :
    (after ((((placed 0x8121).setV 1 0x0F).setV 2 0xF0).setV 0xF 1)).getV 1 = 0xFF ∧
    (after ((((placed 0x8121).setV 1 0x0F).setV 2 0xF0).setV 0xF 1)).getV 0xF = 1 := by decide
/-- L2.4.6. -/
theorem test_and : (after (((placed 0x8012).setV 0 0xF0).setV 1 0x3C)).getV 0 = 0x30 := by decide
/-- R513's example. -/
theorem test_xor : (after (((placed 0x8123).setV 1 0xFF).setV 2 0x0F)).getV 1 = 0xF0 := by decide
/-- L1.5. -/
theorem test_addr :
    (after (((placed 0x8124).setV 1 0xFF).setV 2 0x05)).getV 1 = 0x04 ∧
    (after (((placed 0x8124).setV 1 0xFF).setV 2 0x05)).getV 0xF = 1 := by decide
/-- L2.4.11, L2.4.12: the flag wins. -/
theorem test_addr_into_vf :
    (after (((placed 0x8FE4).setV 0xF 0xFF).setV 0xE 0x01)).getV 0xF = 1 ∧
    (after (((placed 0x8F04).setV 0xF 0x10).setV 0 0x20)).getV 0xF = 0 := by decide
/-- L2.4.13, L2.4.14. -/
theorem test_subr :
    (after (((placed 0x8015).setV 0 0x05).setV 1 0x05)).getV 0xF = 1 ∧
    (after (((placed 0x8015).setV 0 0x03).setV 1 0x05)).getV 0 = 0xFE ∧
    (after (((placed 0x8015).setV 0 0x03).setV 1 0x05)).getV 0xF = 0 := by decide
/-- L2.4.17, L2.4.18. -/
theorem test_rsub :
    (after (((placed 0x8127).setV 1 0x03).setV 2 0x05)).getV 1 = 0x02 ∧
    (after (((placed 0x8127).setV 1 0x05).setV 2 0x03)).getV 1 = 0xFE ∧
    (after (((placed 0x8127).setV 1 0x05).setV 2 0x03)).getV 0xF = 0 := by decide
/-- L1.6. -/
theorem test_sr :
    (after ((placed 0x8126).setV 2 0xAB)).getV 1 = 0x55 ∧ (after ((placed 0x8126).setV 2 0xAB)).getV 2 = 0x55 ∧
    (after ((placed 0x8126).setV 2 0xAB)).getV 0xF = 1 := by decide
/-- L2.4.21, L2.4.22, L2.4.23. -/
theorem test_sr_with_vf :
    (after ((placed 0x8F16).setV 1 0x03)).getV 1 = 0x01 ∧ (after ((placed 0x8F16).setV 1 0x03)).getV 0xF = 1 ∧
    (after ((placed 0x81F6).setV 0xF 0x02)).getV 0xF = 0 ∧ (after ((placed 0x8FF6).setV 0xF 0x03)).getV 0xF = 1 := by
  decide
/-- L2.4.24, L2.4.26. -/
theorem test_sl :
    (after ((placed 0x812E).setV 2 0x81)).getV 1 = 0x02 ∧ (after ((placed 0x812E).setV 2 0x81)).getV 2 = 0x02 ∧
    (after ((placed 0x812E).setV 2 0x81)).getV 0xF = 1 ∧ (after ((placed 0x812E).setV 2 0x7F)).getV 0xF = 0 := by
  decide
/-- L2.4.27. -/
theorem test_rand : (after (placed 0xC20F)).getV 2 = 0x07 := by decide

/-- L2.5.1. -/
theorem test_si : (after ((placed 0xA000).setI 0x1234)).i = 0x0000 := by decide
/-- L2.5.2, L2.5.4. -/
theorem test_addi :
    (after (((placed 0xF01E).setI 0x0FF0).setV 0 0x20)).i = 0x1010 ∧
    (after (((placed 0xF01E).setI 0xFFF0).setV 0 0x20)).i = 0x0010 := by decide
/-- L2.5.5. -/
theorem test_sprite : (after ((placed 0xF029).setV 0 0x0F)).i = 0x004B := by decide
/-- L2.5.7. -/
theorem test_sprite_range :
    (after ((placed 0xF029).setV 0 0x10)).halt = some ⟨.spriteDigitRange 0x10, 0x0200⟩ := by decide
/-- L2.5.12. -/
theorem test_bcd :
    (after (((placed 0xF533).setI 0x300).setV 5 0xFE)).mem =
      [(0x200, 0xF5), (0x201, 0x33), (0x300, 2), (0x301, 5), (0x302, 4)] ∧
    (after (((placed 0xF533).setI 0x300).setV 5 0xFE)).i = 0x0300 := by decide
/-- L2.5.13, L2.5.15. -/
theorem test_bcd_faults :
    (after (((placed 0xF033).setI 0x0E9E).setV 0 0x7B)).halt = some ⟨.reservedAccess 0x0EA0, 0x0200⟩ ∧
    (after (((placed 0xF033).setI 0x0E9E).setV 0 0x7B)).mem = [(0x200, 0xF0), (0x201, 0x33)] ∧
    (after ((placed 0xF033).setI 0x1000)).halt = some ⟨.addressFault 0x1000, 0x0200⟩ := by decide
/-- L2.5.17 and L1.10's increment. -/
theorem test_rdump :
    (after (((placed 0xF155).setI 0x300).setV 1 0x42)).mem = [(0x200, 0xF1), (0x201, 0x55), (0x301, 0x42)] ∧
    (after (((placed 0xF155).setI 0x300).setV 1 0x42)).i = 0x0302 := by decide
/-- L2.5.18. -/
theorem test_rdump_fault :
    (after (((placed 0xF155).setI 0x0E9F).setV 0 0x07)).halt = some ⟨.reservedAccess 0x0EA0, 0x0200⟩ ∧
    (after (((placed 0xF155).setI 0x0E9F).setV 0 0x07)).i = 0x0E9F := by decide
/-- L2.5.19: glyph 0. -/
theorem test_rload :
    (after (placed 0xF465)).getV 0 = 0xF0 ∧ (after (placed 0xF465)).getV 1 = 0x90 ∧
    (after (placed 0xF465)).getV 4 = 0xF0 ∧ (after (placed 0xF465)).getV 5 = 0 ∧
    (after (placed 0xF465)).i = 0x0005 := by decide

/-- L2.6.10: the reconciliation comes first. -/
theorem test_gdelay :
    (after (((placed 0xF307).setDt 0x3C).setHost ⟨[100], [], [], 0⟩)).getV 3 = 0x36 ∧
    (after (((placed 0xF307).setDt 0x3C).setHost ⟨[100], [], [], 0⟩)).ticks = 6 := by decide
/-- L2.6.9. -/
theorem test_sdelay :
    (after (((placed 0xF315).setV 3 0x3C).setDt 0x09)).dt = 0x3C ∧ (after (placed 0xF315)).ticks = 0 := by decide
/-- L2.6.11. -/
theorem test_ssnd : (after ((placed 0xF318).setV 3 0x05)).st = 0x05 := by decide
/-- L2.6.12. -/
theorem test_gkey : (after (placed 0xF20A)).getV 2 = 0x0B ∧ (after (placed 0xF20A)).pc = 0x0202 := by decide
/-- R863: answers above 0xF are ignored, and the key after them stays for the next query. -/
theorem test_gkey_ignores_other_answers :
    (after ((placed 0xF20A).setHost ⟨[0], [], [0xFF, 0x10, 0x0F, 0x03], 0⟩)).getV 2 = 0x0F ∧
    (after ((placed 0xF20A).setHost ⟨[0], [], [0xFF, 0x10, 0x0F, 0x03], 0⟩)).pc = 0x0202 ∧
    (after ((placed 0xF20A).setHost ⟨[0], [], [0xFF, 0x10, 0x0F, 0x03], 0⟩)).host.keys = [0x03] := by decide
/-- L2.6.13: during the wait nothing but the step's reconciliation shows. -/
theorem test_gkey_held_view :
    ((((placed 0xF20A).setDt 100).setHost ⟨[1000], [], [], 0⟩).heldView.map (fun v => (v.pc, v.dt, v.ticks))) =
      some (0x0200, 40, 60) ∧
    (placed 0x1200).heldView = none := by decide

/-- L2.7.1. -/
theorem test_cls :
    (after ((((placed 0x00E0).setByte 0xF00 0xFF).setByte 0xFFF 0x01).setV 0xF 0x07)).mem = [(0x201, 0xE0)] ∧
    (after ((((placed 0x00E0).setByte 0xF00 0xFF).setByte 0xFFF 0x01).setV 0xF 0x07)).getV 0xF = 0x07 := by
  decide +kernel
/-- L1.9: no wrap to column 0. -/
theorem test_draw_clips :
    (after ((((placed 0xD011).setV 0 60).setI 0x300).setByte 0x300 0xFF)).byte 0xF07 = 0xF0 ∧
    (after ((((placed 0xD011).setV 0 60).setI 0x300).setByte 0x300 0xFF)).byte 0xF00 = 0x00 ∧
    (after ((((placed 0xD011).setV 0 60).setI 0x300).setByte 0x300 0xFF)).getV 0xF = 0 := by decide
/-- L2.7.6: VF is the coordinate, then the flag. -/
theorem test_draw_collides :
    (after (((((placed 0xDF11).setV 0xF 8).setI 0x300).setByte 0x300 0x80).setByte 0xF01 0x01)).byte 0xF01 = 0x00 ∧
    (after (((((placed 0xDF11).setV 0xF 8).setI 0x300).setByte 0x300 0x80).setByte 0xF01 0x01)).getV 0xF = 1 := by
  decide

/-- L2.6.5, L2.6.8: ticks and the floor; none before the reference. -/
theorem test_reconcile :
    (((scripted.setDt 200).setSt 3).reconcile 1000).dt = 140 ∧
    (((scripted.setDt 200).setSt 3).reconcile 1000).st = 0 ∧
    (((scripted.setDt 200).setSt 3).reconcile 17).dt = 199 ∧
    (((scripted.setDt 200).setSt 3).reconcile 16).dt = 200 := by decide
/-- L2.8.1, L2.8.4: the reconciliation is kept. -/
theorem test_undefined_word_halts :
    (after (((placed 0xFFFF).setDt 100).setHost ⟨[1000], [], [], 0⟩)).halt =
      some ⟨.undefinedInstruction 0xFFFF, 0x0200⟩ ∧
    (after (((placed 0xFFFF).setDt 100).setHost ⟨[1000], [], [], 0⟩)).dt = 40 := by decide
/-- L2.2.3, L2.2.9, L2.2.10: the fetch faults. -/
theorem test_fetch_faults :
    (after (scripted.setPc 0x0E9F)).halt = some ⟨.reservedAccess 0x0EA0, 0x0E9F⟩ ∧
    (after (scripted.setPc 0x0FFF)).halt = some ⟨.reservedAccess 0x0FFF, 0x0FFF⟩ ∧
    (after (scripted.setPc 0x10FE)).halt = some ⟨.addressFault 0x10FE, 0x10FE⟩ := by decide
/-- L2.8.2, L2.8.3. -/
theorem test_halted_core :
    step (scripted.setHalt (some ⟨.stackUnderflow, 0x0200⟩)) = .fault (.halted ⟨.stackUnderflow, 0x0200⟩) ∧
    (scripted.setHalt (some ⟨.stackUnderflow, 0x0200⟩)).hostReset.halt = none := ⟨rfl, rfl⟩
/-- L1.4: the odd byte is not copied. -/
theorem test_load :
    (scripted.load [0xAB, 0xCD, 0x12]).toOption.map State.mem = some [(0x200, 0xAB), (0x201, 0xCD)] := by decide
/-- L2.7.9. -/
theorem test_pixel_port :
    (scripted.setByte 0xF00 0x01).pixel 0 0 = some true ∧ (scripted.setByte 0xF00 0x01).pixel 7 0 = some false ∧
    (scripted.setByte 0xF08 0x80).pixel 7 1 = some true ∧ scripted.pixel 64 0 = none := by decide
/-- R800: the numbers of the faults and their information. -/
theorem test_fault_codes :
    (FaultKind.undefinedInstruction 0xFFFF).code = 1 ∧ FaultKind.stackOverflow.code = 2 ∧
    FaultKind.stackUnderflow.code = 3 ∧ (FaultKind.addressFault 0x1000).code = 4 ∧
    (FaultKind.reservedAccess 0xEA0).code = 5 ∧ (FaultKind.spriteDigitRange 0x10).code = 6 ∧
    FaultKind.invalidRegister.code = 7 ∧ (FaultKind.reservedAccess 0xEA0).info = some 0xEA0 ∧
    FaultKind.stackOverflow.info = none := by decide

/-! ## Witnesses: the hypotheses of each obligation are met together -/

theorem witness_DecodeAndEncodeAreInverse : decode 0xFFFF = none ∧ decode 0x5AB0 = some (.skipreq 0xA 0xB) := by
  decide

theorem witness_WordsSelectOneTableRow :
    (⟨"RLOAD", 0xF065, 0xF0FF⟩ : OpcodeRow) ∈ opcodeTable ∧
    OpcodeRow.selectedBy ⟨"RLOAD", 0xF065, 0xF0FF⟩ 0xFF65 = true ∧
    (∀ r ∈ opcodeTable, r.selectedBy 0xFFFF = false) := by decide

theorem witness_DecodedOperandsAreTheFieldsOfTheWord :
    decode 0xD12F = some (.draw 1 2 0xF) ∧ bitsX 0xD12F = 1 ∧ bitsY 0xD12F = 2 ∧ bitsN 0xD12F = 0xF := by decide

/-- The ends of each family's range: a word inside it and one outside. -/
theorem witness_UndefinedWordsByFamily :
    decode 0x0FFF = none ∧ decode 0x1000 = some (.jmp 0) ∧ decode 0x5001 = none ∧ decode 0x800D = none ∧
    decode 0x800E = some (.sl 0 0) ∧ decode 0x8007 = some (.rsub 0 0) ∧ decode 0x900F = none ∧
    decode 0xE09D = none ∧ decode 0xF064 = none := by decide

/-- Parameters away from the defaults, at the ends of R11's ranges. -/
def otherConfig : Config :=
  { stackCapacity := 12, fontBase := 0x1B0, fontData := defaultFont, frameBase := 0x201, reservedBase := 0x201 }

theorem witness_ResetLeavesTheTableOfValues :
    otherConfig.WellFormed ∧ defaultConfig.WellFormed ∧
    ¬ (otherConfig.fontBase ≤ 0x1AF ∧ 0x1AF < otherConfig.fontBase + 80) ∧
    ¬ (otherConfig.fontBase ≤ 0x200 ∧ 0x200 < otherConfig.fontBase + 80) ∧
    (State.resetAt otherConfig 7).byte (otherConfig.fontBase + 79) = 0x80 := by decide

theorem witness_ResetIsDeterministic :
    scripted.cfg = ((scripted.setV 3 9).setHalt (some ⟨.stackOverflow, 0⟩)).cfg ∧
    scripted.nowAnswer = ((scripted.setV 3 9).setHalt (some ⟨.stackOverflow, 0⟩)).nowAnswer := by decide

theorem witness_ResetStateIsWellFormed : otherConfig.WellFormed := by decide

theorem witness_StepKeepsStateWellFormed :
    (placed 0xF533).WellFormed ∧ ∃ t, step (placed 0xF533) = .next t := ⟨by decide, _, rfl⟩

theorem witness_LoadCopiesOrRefuses :
    scripted.WellFormed ∧
    scripted.cfg.reservedBase < 0x200 + ((List.replicate 3234 (0 : Byte)).length
      - (List.replicate 3234 (0 : Byte)).length % 2) ∧
    0x200 + ((List.replicate 3233 (0 : Byte)).length - (List.replicate 3233 (0 : Byte)).length % 2)
      ≤ scripted.cfg.reservedBase := by
  refine ⟨by decide, ?_, ?_⟩ <;> rw [List.length_replicate] <;> decide

theorem witness_PeekForetellsTheStep :
    scripted.halt = none ∧ (placed 0x1200).peek = .instr (.jmp 0x200) ∧ (placed 0x1200).halt = none ∧
    scripted.peek = .undefinedWord ∧ (scripted.setPc 0x0E9F).halt = none ∧
    (scripted.setPc 0x0E9F).peek = .faulting (.reservedAccess 0xEA0) := by decide

theorem witness_PixelPortReadsTheFrame :
    scripted.pixel 63 31 = some false ∧ scripted.pixel 64 31 = none ∧ scripted.pixel 63 32 = none := by decide

theorem witness_StepRunsTheDecodedInstruction :
    ((placed 0x6A01).halt = none ∧ (placed 0x6A01).fetch = .ok 0x6A01 ∧ decode 0x6A01 = some (.mov 0xA 0x01)) ∧
    ((placed 0xFFFF).halt = none ∧ (placed 0xFFFF).fetch = .ok 0xFFFF ∧ decode 0xFFFF = none) ∧
    ((scripted.setPc 0x1000).halt = none ∧
      (scripted.setPc 0x1000).fetch = .error (.addressFault 0x1000)) := by decide

theorem witness_HaltedCoreTakesNoStep :
    (after (placed 0xFFFF)).halt = some ⟨.undefinedInstruction 0xFFFF, 0x0200⟩ := by decide

theorem witness_RunningCoreAlwaysSteps : scripted.halt = none := by decide

theorem witness_FaultsArePrecise :
    (placed 0x00EE).halt = none ∧ ∃ t, step (placed 0x00EE) = .next t ∧
      t.halt = some ⟨.stackUnderflow, 0x0200⟩ := ⟨by decide, _, rfl, by decide⟩

theorem witness_FetchChecksBothBytes :
    scripted.cfg.WellFormed ∧ (scripted.setPc 0x0E9E).pc.toNat + 1 < scripted.cfg.reservedBase ∧
    0x1000 ≤ (scripted.setPc 0x1000).pc.toNat ∧
    (scripted.cfg.reservedBase ≤ (scripted.setPc 0x0EA0).pc.toNat ∧ (scripted.setPc 0x0EA0).pc.toNat < 0x1000) ∧
    (scripted.cfg.reservedBase ≤ (scripted.setPc 0x0FFF).pc.toNat ∧ (scripted.setPc 0x0FFF).pc.toNat < 0x1000) ∧
    (scripted.setPc 0x0E9F).pc.toNat + 1 = scripted.cfg.reservedBase := by decide

theorem witness_StoresAreSeenByTheNextFetch :
    scripted.WellFormed ∧
    scripted.memWrite scripted.pc.toNat 0x12 = .ok (scripted.setByte 0x200 0x12) ∧
    (scripted.setByte 0x200 0x12).fetch = .ok 0x1200 ∧
    scripted.memWrite (scripted.pc.toNat + 1) 0x34 = .ok (scripted.setByte 0x201 0x34) ∧
    (scripted.setByte 0x201 0x34).fetch = .ok 0x0034 := by decide

/-- Each of the four kinds of fault, and the last byte of a transfer as the failing one. -/
theorem witness_FaultsOnlyAsListed :
    (∃ t, exec (.call 0x300) (scripted.setStack 16 (List.replicate 16 0)) = .next t ∧
      t.halt = some ⟨.stackOverflow, 0x0200⟩) ∧
    (∃ t, exec .ret scripted = .next t ∧ t.halt = some ⟨.stackUnderflow, 0x0200⟩) ∧
    (∃ t, exec (.sprite 3) (scripted.setV 3 0x10) = .next t ∧
      t.halt = some ⟨.spriteDigitRange 0x10, 0x0200⟩) ∧
    (∃ t, exec (.bcd 3) (scripted.setI 0x0E9E) = .next t ∧ t.halt = some ⟨.reservedAccess 0xEA0, 0x0200⟩) ∧
    scripted.halt = none :=
  ⟨⟨_, rfl, by decide⟩, ⟨_, rfl, by decide⟩, ⟨_, rfl, by decide⟩, ⟨_, rfl, by decide⟩, by decide⟩

theorem witness_ReconcileAppliesTheTicksOwed :
    (120 : Nat) = (if scripted.tRef ≤ 2000 then (2000 - scripted.tRef) * 60 / 1000 else 0) := by decide

theorem witness_CountdownIndependentOfStepRate :
    ([0, 10, 10, 20] ++ [30] : List Nat).Pairwise (· ≤ ·) := by decide

theorem witness_CallPushesTheReturnAddress :
    scripted.WellFormed ∧ scripted.sp ≠ scripted.cfg.stackCapacity ∧
    (scripted.setStack 15 (List.replicate 16 0)).WellFormed ∧
    (scripted.setStack 15 (List.replicate 16 0)).sp ≠ scripted.cfg.stackCapacity ∧
    (scripted.setStack 16 (List.replicate 16 0)).WellFormed ∧
    (scripted.setStack 16 (List.replicate 16 0)).sp = scripted.cfg.stackCapacity := by decide

theorem witness_RetPopsIntoThePc :
    scripted.WellFormed ∧ scripted.sp = 0 ∧ (scripted.setStack 16 (List.replicate 16 0x202)).WellFormed ∧
    (scripted.setStack 16 (List.replicate 16 0x202)).sp ≠ 0 ∧
    (scripted.setStack 1 (List.replicate 16 0x202)).sp ≠ 0 := by decide

theorem witness_RetReturnsAfterItsCall :
    scripted.WellFormed ∧ scripted.sp ≠ scripted.cfg.stackCapacity ∧
    ∃ t, exec (.call 0x300) scripted = .next t ∧ State.StackKept t (t.setV 3 7) :=
  ⟨by decide, by decide, _, rfl, ⟨rfl, rfl⟩⟩

theorem witness_AddrSetsTheCarry : (3 : Reg) ≠ 0xF := by decide
theorem witness_SubtractionsSetNotBorrow : (0xE : Reg) ≠ 0xF := by decide
theorem witness_ShiftsWriteVyVxAndTheBitShiftedOut : (0 : Reg) ≠ 0xF ∧ (0xE : Reg) ≠ 0xF := by decide

theorem witness_SpritePointsAtTheGlyph :
    scripted.cfg.WellFormed ∧ ((scripted.setV 3 0x0F).getV 3).toNat ≤ 0xF ∧
    0xF < ((scripted.setV 3 0x10).getV 3).toNat := by decide

/-- The highest I from which three bytes can be stored. -/
theorem witness_BcdStoresThreeDigits :
    (scripted.setI 0x0E9D).WellFormed ∧ (scripted.setI 0x0E9D).Accessible 3 ∧
    (scripted.setI 0x0E9E).WellFormed ∧ (scripted.setI 0x0E9E).FirstFault 3 (.reservedAccess 0xEA0) :=
  ⟨by decide, by unfold State.Accessible; decide, by decide, 2, by decide, by decide, by decide⟩

theorem witness_RdumpStoresV0ToVx :
    (scripted.setI 0x0E90).WellFormed ∧ (scripted.setI 0x0E90).Accessible ((0xF : Reg).toNat + 1) ∧
    (scripted.setI 0x0E91).WellFormed ∧
    (scripted.setI 0x0E91).FirstFault ((0xF : Reg).toNat + 1) (.reservedAccess 0xEA0) :=
  ⟨by decide, by unfold State.Accessible; decide, by decide, 15, by decide, by decide, by decide⟩

theorem witness_RloadLoadsV0ToVx :
    (scripted.setI 0x0E9F).Accessible ((0 : Reg).toNat + 1) ∧
    (scripted.setI 0x1000).FirstFault ((0 : Reg).toNat + 1) (.addressFault 0x1000) :=
  ⟨by unfold State.Accessible; decide, 0, by decide, by decide, by decide⟩

theorem witness_TransfersFaultAtTheLowestAddress :
    2 < transferBytes (.bcd 3) ∧ 0 < transferBytes (.bcd 3) ∧ (scripted.setI 0x0E9D).halt = none ∧
    (∀ j, j < 2 → progCheck scripted.cfg ((scripted.setI 0x0E9E).i.toNat + j) = none) ∧
    progCheck scripted.cfg ((scripted.setI 0x0E9E).i.toNat + 2) = some (.reservedAccess 0xEA0) ∧
    0 < transferBytes (.draw 0 0 1) ∧
    progCheck scripted.cfg ((scripted.setI 0xFFFF).i.toNat + 0) = some (.addressFault 0xFFFF) := by decide

theorem witness_ProgramAccessesAreChecked :
    scripted.WellFormed ∧ 0x1000 ≤ (0x1000 : Nat) ∧
    (scripted.cfg.reservedBase ≤ 0xEA0 ∧ 0xEA0 < (0x1000 : Nat)) ∧
    (scripted.cfg.reservedBase ≤ 0xFFF ∧ 0xFFF < (0x1000 : Nat)) ∧ 0xE9F < scripted.cfg.reservedBase := by decide

theorem witness_GkeyStoresTheKeyThatEndsTheWait :
    (scripted.setHost ⟨[], [], [0xFF, 0x10, 0x0F, 0x03], 0⟩).host.keys = [0xFF, 0x10] ++ 0x0F :: [0x03] ∧
    (∀ b ∈ ([0xFF, 0x10] : List Byte), 0xF < b.toNat) ∧ (0x0F : Byte).toNat ≤ 0xF :=
  ⟨rfl, by simp, by decide⟩

theorem witness_HeldGkeyKeepsTheReconciledState :
    (placed 0xF20A).halt = none ∧ (placed 0xF20A).fetchInstr = .ok (.gkey 2) ∧ (placed 0xF20A).nowAnswer ≤ 2000 ∧
    ((placed 0xF20A).setHalt (some ⟨.stackOverflow, 0⟩)).halt = some ⟨.stackOverflow, 0⟩ ∧
    (placed 0x1200).fetchInstr = .ok (.jmp 0x200) ∧
    (scripted.setPc 0x1000).fetchInstr = .error (.addressFault 0x1000) := by decide

theorem witness_ClsTurnsEveryPixelOff : (scripted.setByte 0xFFF 0x80).WellFormed := by decide

theorem witness_DrawXorsTheSpriteIntoTheFrame :
    ((scripted.setI 0x0E91).setV 0 63).WellFormed ∧
    ((scripted.setI 0x0E91).setV 0 63).Accessible (0xF : Nibble).toNat ∧
    63 = (((scripted.setI 0x0E91).setV 0 63).getV 0).toNat ∧
    0 = (((scripted.setI 0x0E91).setV 0 63).getV 1).toNat ∧
    (scripted.setI 0x0E92).FirstFault (0xF : Nibble).toNat (.reservedAccess 0xEA0) :=
  ⟨by decide, by unfold State.Accessible; decide, by decide, by decide, 14, by decide, by decide, by decide⟩

theorem witness_DrawingTwiceRestoresTheFrame :
    scripted.WellFormed ∧ scripted.Accessible (5 : Nibble).toNat ∧ (0 : Reg) ≠ 0xF ∧ (1 : Reg) ≠ 0xF ∧
    0 = (scripted.getV 0).toNat ∧ 0 = (scripted.getV 1).toNat ∧
    ∃ t, exec (.draw 0 1 5) scripted = .next t :=
  ⟨by decide, by unfold State.Accessible; decide, by decide, by decide, by decide, by decide, _, rfl⟩

theorem witness_RegistersChangeOnlyWhereWritten :
    ∃ t, exec (.mov 3 7) scripted = .next t ∧ t.getV 3 ≠ scripted.getV 3 := ⟨_, rfl, by decide⟩

theorem witness_FlagIsZeroOrOneAfterAFlagWrite :
    writesFlag (.addr 0xF 1) = true ∧ scripted.halt = none ∧
    ∃ t, exec (.addr 0xF 1) scripted = .next t ∧ t.halt = none := ⟨by decide, by decide, _, rfl, by decide⟩

theorem witness_StackChangesOnlyByCallAndRet :
    ∃ t, exec (.call 0x300) scripted = .next t ∧ ¬ State.StackKept scripted t :=
  ⟨_, rfl, fun h => absurd h.sp (by decide)⟩

theorem witness_IndexChangesOnlyByItsWriters :
    ∃ t, exec (.rload 3) scripted = .next t ∧ t.i ≠ scripted.i := ⟨_, rfl, by decide⟩

theorem witness_TimersChangeOnlyByTheirWriters :
    (∃ t, exec (.sdelay 3) (scripted.setV 3 9) = .next t ∧ t.dt ≠ scripted.dt) ∧
    (∃ t, exec (.ssnd 3) (scripted.setV 3 9) = .next t ∧ t.st ≠ scripted.st) :=
  ⟨⟨_, rfl, by decide⟩, ⟨_, rfl, by decide⟩⟩

/-- Each of the three kinds of writer. -/
theorem witness_MemoryChangesOnlyByItsWriters :
    scripted.WellFormed ∧
    (∃ t, exec (.draw 0 1 5) scripted = .next t ∧ t.byte 0xF00 ≠ scripted.byte 0xF00) ∧
    (∃ t, exec (.bcd 3) ((scripted.setI 0x0E9D).setV 3 9) = .next t ∧ t.byte 0xE9F ≠ scripted.byte 0xE9F) ∧
    (∃ t, exec (.rdump 0) ((scripted.setI 0x0E9F).setV 0 9) = .next t ∧ t.byte 0xE9F ≠ scripted.byte 0xE9F) :=
  ⟨by decide, ⟨_, rfl, by decide⟩, ⟨_, rfl, by decide⟩, ⟨_, rfl, by decide⟩⟩

theorem witness_PcMovesInOneOfThreeForms :
    scripted.halt = none ∧
    (∃ t, exec (.gkey 3) scripted = .next t ∧ t.halt = none) ∧
    isSkip (.gkey 3) = false ∧ setsPc (.gkey 3) = false ∧
    (∃ t, exec (.skipeq 3 0) scripted = .next t ∧ t.halt = none) ∧
    isSkip (.skipeq 3 0) = true :=
  ⟨by decide, ⟨_, rfl, by decide⟩, by decide, by decide, ⟨_, rfl, by decide⟩, by decide⟩

theorem witness_ParametersAndReferenceStayFixed : ∃ t, step (placed 0x6A01) = .next t := ⟨_, rfl⟩

theorem witness_TerminalStatesStayTerminal : (placed 0x1200).Terminal :=
  ⟨by decide, 0x200, by decide, by decide⟩

end Sys2Proof.Tests
end

section
/-! The step of a running core by what its fetch answers (spec/40_control.md R400), and O10: what `peek`
answers is what that step does (spec/00_scope.md R45). -/

namespace Sys2Proof.Machine

variable {s : State} {w : Word} {i : Instr} {k : FaultKind}

/-! ### Fetch and decode, by what the fetch answers -/

theorem State.fetchInstr_of_decode (hw : s.fetch = .ok w) (hi : decode w = some i) :
    s.fetchInstr = .ok i := by
  simp only [State.fetchInstr, hw, hi]

theorem State.fetchInstr_of_undefined (hw : s.fetch = .ok w) (hu : decode w = none) :
    s.fetchInstr = .error (.undefinedInstruction w) := by
  simp only [State.fetchInstr, hw, hu]

theorem State.fetchInstr_of_fetch_error (hk : s.fetch = .error k) : s.fetchInstr = .error k := by
  simp only [State.fetchInstr, hk]

/-! ### The step of a running core -/

theorem step_of_fetchInstr_ok (hrun : s.halt = none) (hi : s.fetchInstr = .ok i) :
    step s = exec i s.beginStep := by
  simp only [step, hrun, State.beginStep_fetchInstr, hi]

theorem step_of_fetchInstr_error (hrun : s.halt = none) (hk : s.fetchInstr = .error k) :
    step s = .next (s.beginStep.setHalt (some ⟨k, s.pc⟩)) := by
  simp only [step, hrun, State.beginStep_fetchInstr, hk, State.raise_eq, State.beginStep_pc]

/-! ### What each answer of `peek` says -/

theorem State.peek_eq_instr_iff : s.peek = .instr i ↔ ∃ w, s.fetch = .ok w ∧ decode w = some i := by
  cases hf : s.fetch with
  | error k => simp [State.peek, hf]
  | ok w => cases hd : decode w <;> simp [State.peek, hf, hd]

theorem State.peek_eq_undefinedWord_iff :
    s.peek = .undefinedWord ↔ ∃ w, s.fetch = .ok w ∧ decode w = none := by
  cases hf : s.fetch with
  | error k => simp [State.peek, hf]
  | ok w => cases hd : decode w <;> simp [State.peek, hf, hd]

theorem State.peek_eq_faulting_iff : s.peek = .faulting k ↔ s.fetch = .error k := by
  cases hf : s.fetch with
  | error k => simp [State.peek, hf]
  | ok w => cases hd : decode w <;> simp [State.peek, hf, hd]

/-- Settles O10: each answer of `peek` fixes what fetch and decode answer, which fixes the step. -/
theorem peekForetellsTheStep : Obligations.PeekForetellsTheStep := by
  intro s hrun
  refine ⟨fun i hp => ?instr, fun hp => ?undefinedWord, fun k hp => ?faulting⟩
  case instr =>
    obtain ⟨w, hw, hi⟩ := State.peek_eq_instr_iff.mp hp
    exact step_of_fetchInstr_ok hrun (State.fetchInstr_of_decode hw hi)
  case undefinedWord =>
    obtain ⟨w, hw, hu⟩ := State.peek_eq_undefinedWord_iff.mp hp
    exact ⟨w, hw, step_of_fetchInstr_error hrun (State.fetchInstr_of_undefined hw hu)⟩
  case faulting =>
    have hk := State.peek_eq_faulting_iff.mp hp
    exact step_of_fetchInstr_error hrun (State.fetchInstr_of_fetch_error hk)

end Sys2Proof.Machine
end

section
/-! What an instruction that answers a next state has done, said once by the kinds of update, and the rules of
spec/10_state.md that follow from it: who writes which register, I, the call stack, the timers and pc. -/

namespace Sys2Proof.Machine

/-- The update an instruction made to the state `s` it ran in: the fault entry of R24, or its effect with the
guard under which it completes. The skips (R440) and the instructions that write registers alone (R101) are
one case for each number of registers they write. CLS's memory stands behind an equation, so that a proof by
`rfl` about another field never unrolls its 256 writes. -/
inductive ExecEffect (s : State) : Instr → State → Prop
  | fault {i : Instr} (k : FaultKind) : ExecEffect s i (s.setHalt (some ⟨k, s.pc⟩))
  | skip {i : Instr} (inp : HostInputs) (c : Bool) (hi : isSkip i = true) :
      ExecEffect s i ((s.setHost inp).skipIf c)
  | write {i : Instr} {x : Reg} (inp : HostInputs) (b : Byte) (hw : writtenRegs i = [x]) :
      ExecEffect s i ((s.setHost inp).setV x b).advance
  | arith {i : Instr} {x : Reg} (b f : Byte) (hw : writtenRegs i = [x, flagReg]) :
      ExecEffect s i ((s.setV x b).setFlag f).advance
  | shift {i : Instr} {x y : Reg} (b f : Byte) (hw : writtenRegs i = [x, y, flagReg]) :
      ExecEffect s i (((s.setV y b).setV x b).setFlag f).advance
  | jmp (nnn : Addr) : ExecEffect s (.jmp nnn) (s.jump (addrWord nnn))
  | pcn (nnn : Addr) : ExecEffect s (.pcn nnn) (s.jump (addrWord nnn + byteWord (s.getV 0)))
  | call (nnn : Addr) (hroom : s.sp ≠ s.cfg.stackCapacity) :
      ExecEffect s (.call nnn) ((s.setStack (s.sp + 1) (s.stack.set s.sp (s.pc + 2))).setPc (addrWord nnn))
  | ret (huse : s.sp ≠ 0) :
      ExecEffect s .ret ((s.setStack (s.sp - 1) s.stack).setPc (s.stack.getD (s.sp - 1) 0))
  | si (nnn : Addr) : ExecEffect s (.si nnn) (s.setI (addrWord nnn)).advance
  | addi (x : Reg) : ExecEffect s (.addi x) (s.setI (s.i + byteWord (s.getV x))).advance
  | sprite (x : Reg) : ExecEffect s (.sprite x) (s.setI (glyphAddress s.cfg (s.getV x))).advance
  | sdelay (x : Reg) : ExecEffect s (.sdelay x) (s.setDt (s.getV x)).advance
  | ssnd (x : Reg) : ExecEffect s (.ssnd x) (s.setSt (s.getV x)).advance
  | cls {m : Memory} (hm : m = clearFrame s.cfg s.mem frameBytes) : ExecEffect s .cls (s.setMem m).advance
  | draw (x y : Reg) (n : Nibble) : ExecEffect s (.draw x y n)
      (s.drawRows (s.getV x) (s.getV y) ((List.range n.toNat).map fun k => s.byte (s.i.toNat + k)))
  | bcd (x : Reg) (ha : s.Accessible 3) : ExecEffect s (.bcd x)
      ((s.setMem (Memory.store s.cfg s.mem s.i.toNat (bcdDigits (s.getV x)))).setPc (s.pc + 2))
  | rdump (x : Reg) (ha : s.Accessible (x.toNat + 1)) : ExecEffect s (.rdump x)
      (((s.setMem (Memory.store s.cfg s.mem s.i.toNat (s.dumpedV (x.toNat + 1)))).setI
        (s.i + BitVec.ofNat 16 (x.toNat + 1))).setPc (s.pc + 2))
  | rload (x : Reg) : ExecEffect s (.rload x)
      (((s.loadV 0 ((List.range (x.toNat + 1)).map fun k => s.byte (s.i.toNat + k))).setI
        (s.i + BitVec.ofNat 16 (x.toNat + 1))).setPc (s.pc + 2))

variable {i : Instr} {s t : State}

/-- A key skip's draw changes the host's answers alone, so it is a skip like the others. -/
theorem ExecEffect.keySkip (c : Bool) (hi : isSkip i = true) : ExecEffect s i (s.takeKey.skipIf c) := by
  rw [State.takeKey_eq]; exact .skip _ c hi

/-- Everything an instruction that answers a next state can have done. -/
theorem exec_effect (h : exec i s = .next t) : ExecEffect s i t := by
  cases i with
  | skipeq | skipneq | skipreq | skiprneq => cases h; exact .skip s.host _ rfl
  | skipkeq | skipkneq => cases h; exact .keySkip _ rfl
  | mov | add | movr | or | and | xor | gdelay => cases h; exact .write s.host _ rfl
  | rand => cases h; rw [State.takeRand_eq]; exact .write _ _ rfl
  | gkey => cases h; rw [State.takeAwaitedKey_eq]; exact .write _ _ rfl
  | addr | subr | rsub => cases h; exact .arith _ _ rfl
  | sr | sl => cases h; exact .shift _ _ rfl
  | jmp nnn => cases h; exact .jmp nnn
  | pcn nnn => cases h; exact .pcn nnn
  | si nnn => cases h; exact .si nnn
  | addi x => cases h; exact .addi x
  | sdelay x => cases h; exact .sdelay x
  | ssnd x => cases h; exact .ssnd x
  | cls => cases h; exact .cls rfl
  | call nnn =>
    obtain ⟨-, rfl⟩ | ⟨hroom, rfl⟩ := execCall_next h
    · exact .fault _
    · exact .call nnn hroom
  | ret =>
    obtain ⟨-, rfl⟩ | ⟨huse, rfl⟩ := execRet_next h
    · exact .fault _
    · exact .ret huse
  | sprite x =>
    obtain ⟨-, rfl⟩ | ⟨-, rfl⟩ := execSprite_next h
    · exact .fault _
    · exact .sprite x
  | draw x y n =>
    obtain ⟨-, rfl⟩ | ⟨f, -, rfl⟩ := execDraw_next h
    · exact .draw x y n
    · exact .fault f
  | bcd x =>
    obtain ⟨ha, rfl⟩ | ⟨f, -, rfl⟩ := execBcd_next h
    · exact .bcd x ha
    · exact .fault f
  | rdump x =>
    obtain ⟨ha, rfl⟩ | ⟨f, -, rfl⟩ := execRdump_next h
    · exact .rdump x ha
    · exact .fault f
  | rload x =>
    obtain ⟨-, rfl⟩ | ⟨f, -, rfl⟩ := execRload_next h
    · exact .rload x
    · exact .fault f

/-! ### The invariant at reset and under every step -/

/-- The last byte of an accessible transfer lies inside memory. -/
theorem State.Accessible.end_le {n : Nat} (h : s.Accessible (n + 1)) : s.i.toNat + (n + 1) ≤ memSize :=
  (h.lt (Nat.lt_succ_self n)).2

theorem State.WellFormed.setMem (hs : s.WellFormed) {m : Memory} (hm : Memory.wf s.cfg m) :
    (s.setMem m).WellFormed :=
  have ⟨hcfg, _, hstack⟩ := hs
  ⟨hcfg, hm, hstack⟩

/-- The invariant speaks of the parameters, memory and the stack alone. -/
theorem State.WellFormed.congr (hs : s.WellFormed) (hcfg : t.cfg = s.cfg) (hmem : t.mem = s.mem)
    (hsp : t.sp = s.sp) (hstack : t.stack = s.stack) : t.WellFormed := by
  simpa only [State.WellFormed, hcfg, hmem, hsp, hstack] using hs

/-- Phase 1 keeps the invariant. -/
theorem State.WellFormed.beginStep (hs : s.WellFormed) : s.beginStep.WellFormed :=
  hs.congr s.beginStep_cfg s.beginStep_mem s.beginStep_sp s.beginStep_stack

/-- Executing keeps the invariant: a store lands inside memory, and `sp` moves only within the capacity. -/
theorem exec_wellFormed (hs : s.WellFormed) (h : exec i s = .next t) : t.WellFormed := by
  have ⟨hcfg, hmem, hsp, hlen⟩ := hs
  cases exec_effect h with
  | call nnn hroom =>
    exact ⟨hcfg, hmem, Nat.lt_of_le_of_ne hsp hroom, (List.length_set ..).trans hlen⟩
  | ret => exact ⟨hcfg, hmem, (Nat.sub_le ..).trans hsp, hlen⟩
  | cls hm =>
    have hwf := clearFrame_wf hcfg hmem (Nat.le_refl frameBytes)
    rw [← hm] at hwf
    exact hs.setMem hwf
  | draw x y n => exact hs.setMem (s.blit_sprite hs _ _ _).1
  | bcd x ha => exact hs.setMem (Memory.wf_store hmem ha.end_le)
  | rdump x ha => exact hs.setMem (Memory.wf_store hmem (by simpa using ha.end_le))
  | rload x =>
    exact hs.congr (State.loadV_cfg ..) (State.loadV_mem ..) (State.loadV_sp ..) (State.loadV_stack ..)
  | _ => exact hs

/-- Settles O8: phase 1 and fault entry touch nothing the invariant speaks of, and executing keeps it. -/
theorem stepKeepsStateWellFormed : Obligations.StepKeepsStateWellFormed := by
  intro s t hs h
  obtain ⟨-, ⟨k, -, rfl⟩ | ⟨i, -, hi⟩⟩ := step_next h
  · exact hs.beginStep
  · exact exec_wellFormed hs.beginStep hi

theorem State.resetAt_wellFormed {c : Config} (hc : c.WellFormed) (now : Nat) :
    (State.resetAt c now).WellFormed :=
  ⟨hc, Memory.wf_nil c, Nat.zero_le _, List.length_replicate⟩

/-- The defaults of R11 meet its constraints. -/
theorem defaultConfig_wellFormed : defaultConfig.WellFormed := by decide

/-- Settles O7: the reset memory lists no cell, and the reset stack is empty with every entry there. -/
theorem resetStateIsWellFormed : Obligations.ResetStateIsWellFormed :=
  ⟨fun _ now hc => State.resetAt_wellFormed hc now, State.resetAt_wellFormed defaultConfig_wellFormed 0⟩

/-! ### The values after reset (R150) -/

theorem State.getV_resetAt (c : Config) (now : Nat) (x : Reg) : (State.resetAt c now).getV x = 0 :=
  Vector.getElem_replicate _

theorem State.byte_resetAt (c : Config) (now a : Nat) : (State.resetAt c now).byte a = resetByte c a := rfl

theorem resetByte_outside_font {c : Config} {a : Nat} (h : ¬ (c.fontBase ≤ a ∧ a < c.fontBase + 80)) :
    resetByte c a = 0 := if_neg h

theorem resetByte_font (c : Config) {k : Nat} (hk : k < 80) :
    resetByte c (c.fontBase + k) = c.fontData.getD k 0 := by
  rw [resetByte, if_pos (by simp only [fontBytes]; omega), Nat.add_sub_cancel_left]

/-- Settles O5: an unwritten byte reads as its reset contents, and the framebuffer lies above the font (R11). -/
theorem resetLeavesTheTableOfValues : Obligations.ResetLeavesTheTableOfValues := by
  intro c now hc
  refine ⟨State.getV_resetAt c now, rfl, rfl, rfl, rfl, rfl, rfl, fun a _ ha => ?outside, fun k hk => ?font,
    fun k _ => ?frame, rfl, rfl, rfl⟩ <;> rw [State.byte_resetAt]
  case outside => exact resetByte_outside_font ha
  case font => exact resetByte_font c hk
  case frame => exact resetByte_outside_font (by omega)

/-! ### Who writes what -/

theorem State.RegsKeptBut.setHost {named : List Reg} (h : State.RegsKeptBut named s t) (inp : HostInputs) :
    State.RegsKeptBut named s (t.setHost inp) := h

/-- RLOAD's row names every register up to its operand. -/
theorem mem_writtenRegs_rload {x r : Reg} (h : r.toNat ≤ x.toNat) : r ∈ writtenRegs (.rload x) :=
  List.mem_map.mpr ⟨r.toNat, List.mem_range.mpr (Nat.lt_succ_of_le h), by simp⟩

/-- R101: an instruction keeps every register outside its row's writes. -/
theorem exec_regsKept (h : exec i s = .next t) : State.RegsKeptBut (writtenRegs i) s t := by
  have hrefl := State.regsKeptBut_refl (writtenRegs i) s
  cases exec_effect h with
  | write inp b hw => exact ((hrefl.setHost inp).setV b (by simp [hw])).setPc _
  | arith b f hw => exact ((hrefl.setV b (by simp [hw])).setV f (by simp [hw])).setPc _
  | shift b f hw =>
    exact (((hrefl.setV b (by simp [hw])).setV b (by simp [hw])).setV f (by simp [hw])).setPc _
  | draw => exact ((hrefl.setMem _).setV _ (by simp [writtenRegs])).setPc _
  | rload x =>
    intro r hr
    have hxr : x.toNat < r.toNat := not_le.mp fun hle => hr (mem_writtenRegs_rload hle)
    rw [State.getV_setPc, State.getV_setI, State.getV_loadV _ _ _ (by simp; omega), if_neg (by simp; omega)]
  | _ => exact fun _ _ => rfl

/-- Settles O47. -/
theorem registersChangeOnlyWhereWritten : Obligations.RegistersChangeOnlyWhereWritten := by
  intro i s t r h hne
  by_contra hr
  exact hne (exec_regsKept h r hr)

/-- Settles O49: of all the effects only those of CALL and RET are updates of the stack. -/
theorem stackChangesOnlyByCallAndRet : Obligations.StackChangesOnlyByCallAndRet := by
  intro i s t h hne
  cases exec_effect h with
  | call nnn => exact .inr ⟨nnn, rfl⟩
  | ret => exact .inl rfl
  | rload x => exact absurd ⟨State.loadV_sp .., State.loadV_stack ..⟩ hne
  | _ => exact absurd ⟨rfl, rfl⟩ hne

/-- Settles O50: of all the effects only those of the five writers are updates of I. -/
theorem indexChangesOnlyByItsWriters : Obligations.IndexChangesOnlyByItsWriters := by
  intro i s t h hne
  cases exec_effect h with
  | si nnn => exact .inl ⟨nnn, rfl⟩
  | addi x => exact .inr (.inl ⟨x, rfl⟩)
  | sprite x => exact .inr (.inr (.inl ⟨x, rfl⟩))
  | rdump x => exact .inr (.inr (.inr (.inl ⟨x, rfl⟩)))
  | rload x => exact .inr (.inr (.inr (.inr ⟨x, rfl⟩)))
  | _ => exact absurd rfl hne

/-- Settles O51: of all the effects SDELAY's alone updates DT, SSND's alone ST, and none the reference or
the tick count. -/
theorem timersChangeOnlyByTheirWriters : Obligations.TimersChangeOnlyByTheirWriters := by
  intro i s t h
  cases exec_effect h with
  | sdelay x => exact ⟨fun _ => ⟨x, rfl⟩, fun hne => absurd rfl hne, rfl, rfl⟩
  | ssnd x => exact ⟨fun hne => absurd rfl hne, fun _ => ⟨x, rfl⟩, rfl, rfl⟩
  | rload x =>
    exact ⟨absurd (State.loadV_dt ..), absurd (State.loadV_st ..), State.loadV_tRef .., State.loadV_ticks ..⟩
  | _ => exact ⟨absurd rfl, absurd rfl, rfl, rfl⟩

/-- Settles O53: every effect but a jump, a call, a return, a skip and a fault ends with the advance. -/
theorem pcMovesInOneOfThreeForms : Obligations.PcMovesInOneOfThreeForms := by
  intro i s t _ h hrun
  cases exec_effect h with
  | fault k => cases hrun
  | skip inp c hi =>
    refine ⟨fun hno => absurd (hi.symm.trans hno) nofun, fun _ => ?_⟩
    cases c with
    | false => exact .inl rfl
    | true => exact .inr rfl
  | jmp | pcn | call | ret => exact ⟨nofun, nofun⟩
  | _ => exact ⟨fun _ _ => rfl, fun _ => .inl rfl⟩

/-! ### The flag (R104) -/

theorem shiftedOutRight_zero_or_one (b : Byte) : shiftedOutRight b = 0 ∨ shiftedOutRight b = 1 := by
  have h := shiftedOutRight_toNat b
  bv_omega

theorem shiftedOutLeft_zero_or_one (b : Byte) : shiftedOutLeft b = 0 ∨ shiftedOutLeft b = 1 := by
  have h := shiftedOutLeft_toNat b
  bv_omega

/-- VF after an instruction whose last register write is the flag. -/
theorem State.getV_advance_setFlag (s : State) (f : Byte) : (s.setFlag f).advance.getV 0xF = f :=
  State.getV_setFlag_flagReg s f

/-- Settles O48: each of the six writes its flag last, and each flag is one bit. -/
theorem flagIsZeroOrOneAfterAFlagWrite : Obligations.FlagIsZeroOrOneAfterAFlagWrite := by
  intro i s t hi _ h hrun
  cases i with
  | addr | subr | rsub => cases h; rw [State.getV_advance_setFlag]; exact flagOf_zero_or_one _
  | sr => cases h; rw [State.getV_advance_setFlag]; exact shiftedOutRight_zero_or_one _
  | sl => cases h; rw [State.getV_advance_setFlag]; exact shiftedOutLeft_zero_or_one _
  | draw =>
    obtain ⟨-, rfl⟩ | ⟨f, -, rfl⟩ := execDraw_next h
    · rw [State.drawRows, State.getV_advance_setFlag]; exact flagOf_zero_or_one _
    · cases hrun
  | _ => cases hi

end Sys2Proof.Machine
end

section
/-! Program accesses and the fetch by the answer of `ProgCheck` (spec/20_memory.md R220, R221), and the memory
rules that follow from them: what an access answers, what the next fetch sees of a store (R250), and who
writes which byte (R201, R223). -/

namespace Sys2Proof.Machine

variable {s t : State} {a : Nat} {b hi lo : Byte} {w : Word} {k : FaultKind}

/-! ### One access, by the answer of its check -/

theorem State.memRead_of_progCheck_none (h : progCheck s.cfg a = none) : s.memRead a = .ok (s.byte a) := by
  simp only [State.memRead, h]

theorem State.memRead_of_progCheck_some (h : progCheck s.cfg a = some k) : s.memRead a = .error k := by
  simp only [State.memRead, h]

theorem State.memWrite_of_progCheck_none (h : progCheck s.cfg a = none) :
    s.memWrite a b = .ok (s.setByte a b) := by
  simp only [State.memWrite, h]

theorem State.memWrite_of_progCheck_some (h : progCheck s.cfg a = some k) : s.memWrite a b = .error k := by
  simp only [State.memWrite, h]

/-- A read that answers a byte answers the one memory holds. -/
theorem State.eq_byte_of_memRead_ok (h : s.memRead a = .ok b) : b = s.byte a := by
  cases hc : progCheck s.cfg a with
  | none => rw [State.memRead_of_progCheck_none hc] at h; exact (Except.ok.inj h).symm
  | some k => rw [State.memRead_of_progCheck_some hc] at h; cases h

/-- A write that answers a state has stored its byte and done nothing else. -/
theorem State.eq_setByte_of_memWrite_ok (h : s.memWrite a b = .ok t) : t = s.setByte a b := by
  cases hc : progCheck s.cfg a with
  | none => rw [State.memWrite_of_progCheck_none hc] at h; exact (Except.ok.inj h).symm
  | some k => rw [State.memWrite_of_progCheck_some hc] at h; cases h

theorem State.byte_setByte_same (hs : s.WellFormed) : (s.setByte a b).byte a = b :=
  have ⟨_, hmem, _⟩ := hs
  Memory.read_write_same hmem a b

theorem State.byte_setByte_other {e : Nat} (h : e ≠ a) : (s.setByte a b).byte e = s.byte e :=
  Memory.read_write_other b h

/-- Settles O40: each of the three ranges fixes the check's answer, and below the reserved region the store is
one update of memory. -/
theorem programAccessesAreChecked : Obligations.ProgramAccessesAreChecked := by
  intro s a b hs
  refine ⟨fun ha => ?outside, fun hr ha => ?reserved, fun ha => ?below⟩
  case outside =>
    have hc := progCheck_outside (c := s.cfg) ha
    exact ⟨State.memRead_of_progCheck_some hc, State.memWrite_of_progCheck_some hc⟩
  case reserved =>
    have hc := progCheck_reserved hr ha
    exact ⟨State.memRead_of_progCheck_some hc, State.memWrite_of_progCheck_some hc⟩
  case below =>
    have hc := progCheck_of_lt hs.1 ha
    have hread : (s.setByte a b).memRead a = .ok b := by
      rw [State.memRead_of_progCheck_none (s := s.setByte a b) hc, State.byte_setByte_same hs]
    exact ⟨State.memRead_of_progCheck_none hc, s.setByte a b, State.memWrite_of_progCheck_none hc, hread,
      fun _ => State.byte_setByte_other, (State.regsKeptBut_refl [] s).setMem _, rfl, rfl,
      (State.RestKept.refl s).setMem _, rfl⟩

/-! ### The fetch, by the answers of its two reads -/

theorem State.fetch_of_memRead_ok (hhi : s.memRead s.pc.toNat = .ok hi)
    (hlo : s.memRead (s.pc.toNat + 1) = .ok lo) : s.fetch = .ok (wordOfBytes hi lo) := by
  simp only [State.fetch, hhi, hlo]

theorem State.fetch_of_high_error (hhi : s.memRead s.pc.toNat = .error k) : s.fetch = .error k := by
  simp only [State.fetch, hhi]

theorem State.fetch_of_low_error (hhi : s.memRead s.pc.toNat = .ok hi)
    (hlo : s.memRead (s.pc.toNat + 1) = .error k) : s.fetch = .error k := by
  simp only [State.fetch, hhi, hlo]

/-- A fetch that answers a word answers the two bytes memory holds at `pc`. -/
theorem State.eq_wordOfBytes_of_fetch_ok (h : s.fetch = .ok w) :
    w = wordOfBytes (s.byte s.pc.toNat) (s.byte (s.pc.toNat + 1)) := by
  cases hhi : s.memRead s.pc.toNat with
  | error k => rw [State.fetch_of_high_error hhi] at h; cases h
  | ok hi =>
    cases hlo : s.memRead (s.pc.toNat + 1) with
    | error k => rw [State.fetch_of_low_error hhi hlo] at h; cases h
    | ok lo =>
      rw [State.fetch_of_memRead_ok hhi hlo] at h
      rw [← State.eq_byte_of_memRead_ok hhi, ← State.eq_byte_of_memRead_ok hlo, Except.ok.inj h]

/-- Settles O16: the check of the byte at `pc` decides first, and that of `pc + 1` only where it passes. -/
theorem fetchChecksBothBytes : Obligations.FetchChecksBothBytes := by
  intro s hc
  have hread {a : Nat} (ha : a < s.cfg.reservedBase) : s.memRead a = .ok (s.byte a) :=
    State.memRead_of_progCheck_none (progCheck_of_lt hc ha)
  refine ⟨fun hpc => ⟨_, State.fetch_of_memRead_ok (hread (by omega)) (hread hpc), ?word⟩,
    fun hpc => ?outside, fun hr hpc => ?reserved, fun hpc => ?lastByte⟩
  case word => rw [wordOfBytes_toNat, Nat.mul_comm]
  case outside => exact State.fetch_of_high_error (State.memRead_of_progCheck_some (progCheck_outside hpc))
  case reserved => exact State.fetch_of_high_error (State.memRead_of_progCheck_some (progCheck_reserved hr hpc))
  case lastByte =>
    refine State.fetch_of_low_error (hread (by omega)) (State.memRead_of_progCheck_some ?_)
    exact progCheck_reserved hpc.ge (by unfold memSize; omega)

/-- Settles O17: the store leaves `pc` alone, so the fetch reads the stored byte at its place. -/
theorem storesAreSeenByTheNextFetch : Obligations.StoresAreSeenByTheNextFetch := by
  intro s t b w hs
  refine ⟨fun hst hf => ?high, fun hst hf => ?low⟩
  case high =>
    obtain rfl := State.eq_setByte_of_memWrite_ok hst
    rw [State.eq_wordOfBytes_of_fetch_ok hf, highByte_wordOfBytes]
    exact State.byte_setByte_same hs
  case low =>
    obtain rfl := State.eq_setByte_of_memWrite_ok hst
    rw [State.eq_wordOfBytes_of_fetch_ok hf, lowByte_wordOfBytes]
    exact State.byte_setByte_same hs

/-! ### Who writes which byte -/

/-- A byte that storing bytes has changed is one of those stored. -/
theorem Memory.stored_of_read_store_ne {c : Config} {m : Memory} {e : Nat} {bs : List Byte}
    (h : Memory.read c (Memory.store c m a bs) e ≠ Memory.read c m e) : a ≤ e ∧ e < a + bs.length := by
  by_contra hout
  exact h (Memory.read_store_outside c m hout)

/-- Every byte of an accessible transfer lies below the reserved region. -/
theorem State.Accessible.lt_reservedBase {n : Nat} (h : s.Accessible n) (hle : s.i.toNat ≤ a)
    (hlt : a < s.i.toNat + n) : a < s.cfg.reservedBase := by
  have := (h.lt (k := a - s.i.toNat) (by omega)).1
  omega

/-- Settles O52: of all the effects only those of CLS, DRAW, BCD and RDUMP are updates of memory, the first two
inside the framebuffer and the others inside the bytes their checks passed. -/
theorem memoryChangesOnlyByItsWriters : Obligations.MemoryChangesOnlyByItsWriters := by
  intro i s t a hs h hne
  cases exec_effect h with
  | cls hm =>
    refine .inl ⟨.inl rfl, ?_⟩
    by_contra hout
    have hkept := clearFrame_outside s.mem (Nat.le_refl frameBytes) hout
    rw [← hm] at hkept
    exact hne hkept
  | draw x y n =>
    refine .inl ⟨.inr ⟨x, y, n, rfl⟩, ?_⟩
    by_contra hout
    obtain ⟨-, -, -, hkept⟩ := s.blit_sprite hs (s.getV x).toNat (s.getV y).toNat n.toNat
    exact hne (hkept a hout)
  | bcd x ha =>
    obtain ⟨hle, hlt⟩ := Memory.stored_of_read_store_ne hne
    exact .inr (.inl ⟨⟨x, rfl⟩, hle, hlt, ha.lt_reservedBase hle hlt⟩)
  | rdump x ha =>
    obtain ⟨hle, hlt⟩ := Memory.stored_of_read_store_ne hne
    rw [State.dumpedV_length] at hlt
    exact .inr (.inr ⟨x, rfl, hle, Nat.le_of_lt_succ hlt, ha.lt_reservedBase hle hlt⟩)
  | rload x => exact absurd (State.byte_loadV ..) hne
  | _ => exact absurd rfl hne

end Sys2Proof.Machine
end

section
/-! Decode and encode against each other and against the opcode table (spec/30_encoding.md): the round trip
(R341), the row a word selects (R321), the operands' places (R301) and the undefined words (R330). -/

namespace Sys2Proof

open Machine

variable {w : Word} {i : Instr} {r q : OpcodeRow} {o : Nibble}

/-! ### The round trip (R341) -/

/-- The fields of each format are the operands packed into it, so each family's match finds its own row. -/
theorem decode_encode (i : Instr) : decode (encode i) = some i := by
  cases i with
  | cls | ret => rfl
  | jmp | call | si | pcn => simp [encode, decode]
  | skipeq | skipneq | mov | add | rand => simp [encode, decode]
  | skipreq | skiprneq | draw => simp [encode, decode]
  | movr | or | and | xor | addr | subr | sr | rsub | sl => simp [encode, decode, decodeAlu]
  | skipkeq | skipkneq => simp [encode, decode, decodeKeySkip]
  | gdelay | gkey | sdelay | ssnd | addi | sprite | bcd | rdump | rload =>
    simp [encode, decode, decodeMisc]

theorem encode_of_decodeAlu {x y : Reg} {n : Nibble} (h : decodeAlu x y n = some i) :
    encode i = wordXyn 0x8 x y n := by
  unfold decodeAlu at h
  split at h <;> cases h <;> rfl

theorem encode_of_decodeKeySkip {x : Reg} {kk : Byte} (h : decodeKeySkip x kk = some i) :
    encode i = wordXkk 0xE x kk := by
  unfold decodeKeySkip at h
  split at h <;> cases h <;> rfl

theorem encode_of_decodeMisc {x : Reg} {kk : Byte} (h : decodeMisc x kk = some i) :
    encode i = wordXkk 0xF x kk := by
  unfold decodeMisc at h
  split at h <;> cases h <;> rfl

theorem wordAddr_of_family (hO : fieldO w = o) : wordAddr o (fieldNnn w) = w := by
  rw [← hO, wordAddr_fields]

theorem wordXkk_of_family (hO : fieldO w = o) : wordXkk o (fieldX w) (fieldKk w) = w := by
  rw [← hO, wordXkk_fields]

theorem wordXyn_of_family (hO : fieldO w = o) :
    wordXyn o (fieldX w) (fieldY w) (fieldN w) = w := by
  rw [← hO, wordXyn_fields]

/-- In each family the word is the format of its own fields, and that is how the instruction is encoded.
Case `h_k` of the split is family `k - 1`, so the cases are grouped by the format of the family's words. -/
theorem encode_of_decode (h : decode w = some i) : encode i = w := by
  unfold decode at h
  split at h
  case h_1 =>
    split at h
    next hw => cases h; exact hw.symm
    next =>
      split at h
      next hw => cases h; exact hw.symm
      next => cases h
  case h_2 hO | h_3 hO | h_11 hO | h_12 hO => cases h; exact wordAddr_of_family hO
  case h_4 hO | h_5 hO | h_7 hO | h_8 hO | h_13 hO => cases h; exact wordXkk_of_family hO
  case h_6 hO | h_10 hO =>
    split at h
    next hn => cases h; rw [encode, ← hn]; exact wordXyn_of_family hO
    next => cases h
  case h_9 hO => rw [encode_of_decodeAlu h]; exact wordXyn_of_family hO
  case h_14 hO => cases h; exact wordXyn_of_family hO
  case h_15 hO => rw [encode_of_decodeKeySkip h]; exact wordXkk_of_family hO
  case h_16 hO => rw [encode_of_decodeMisc h]; exact wordXkk_of_family hO
  case h_17 => cases h

/-- Settles O1: the decoder reads back the fields the encoder packs, and a word is the packing of its fields. -/
theorem decodeAndEncodeAreInverse : Obligations.DecodeAndEncodeAreInverse :=
  ⟨decode_encode, fun _ _ => encode_of_decode⟩

/-! ### The operands' places (R301) -/

/-- Every format packs its operands where R301's fields read them. -/
theorem operandsAreFieldsOf_encode (i : Instr) : OperandsAreFieldsOf (encode i) i := by
  cases i with
  | cls | ret => trivial
  | jmp | call | si | pcn => simp [OperandsAreFieldsOf, encode, bitsNnn, ← fieldNnn_toNat]
  | skipeq | skipneq | mov | add | rand =>
    simp [OperandsAreFieldsOf, encode, bitsX, bitsKk, ← fieldX_toNat, ← fieldKk_toNat]
  | skipreq | skiprneq | movr | or | and | xor | addr | subr | sr | rsub | sl =>
    simp [OperandsAreFieldsOf, encode, bitsX, bitsY, ← fieldX_toNat, ← fieldY_toNat]
  | draw =>
    simp [OperandsAreFieldsOf, encode, bitsX, bitsY, bitsN, ← fieldX_toNat, ← fieldY_toNat, ← fieldN_toNat]
  | skipkeq | skipkneq | gdelay | gkey | sdelay | ssnd | addi | sprite | bcd | rdump | rload =>
    simp [OperandsAreFieldsOf, encode, bitsX, ← fieldX_toNat]

/-- Settles O56: a word that decodes is its instruction's encoding, which packs each operand at its place. -/
theorem decodedOperandsAreTheFieldsOfTheWord : Obligations.DecodedOperandsAreTheFieldsOfTheWord := by
  refine ⟨fun w i h => ?_, fun w => ⟨fieldX_toNat w, fieldY_toNat w, fieldN_toNat w, fieldKk_toNat w,
    fieldNnn_toNat w⟩⟩
  rw [← encode_of_decode h]
  exact operandsAreFieldsOf_encode i

/-! ### The row a word selects (R321) -/

open Laws in
/-- Every instruction's word selects the row of its mnemonic. -/
theorem matchesTable : ∀ i : Instr, MatchesTable.Statement i
  | .cls => MatchesTable.cls
  | .ret => MatchesTable.ret
  | .jmp nnn => MatchesTable.jmp nnn
  | .call nnn => MatchesTable.call nnn
  | .skipeq x kk => MatchesTable.skipeq x kk
  | .skipneq x kk => MatchesTable.skipneq x kk
  | .skipreq x y => MatchesTable.skipreq x y
  | .mov x kk => MatchesTable.mov x kk
  | .add x kk => MatchesTable.add x kk
  | .movr x y => MatchesTable.movr x y
  | .or x y => MatchesTable.or x y
  | .and x y => MatchesTable.and x y
  | .xor x y => MatchesTable.xor x y
  | .addr x y => MatchesTable.addr x y
  | .subr x y => MatchesTable.subr x y
  | .sr x y => MatchesTable.sr x y
  | .rsub x y => MatchesTable.rsub x y
  | .sl x y => MatchesTable.sl x y
  | .skiprneq x y => MatchesTable.skiprneq x y
  | .si nnn => MatchesTable.si nnn
  | .pcn nnn => MatchesTable.pcn nnn
  | .rand x kk => MatchesTable.rand x kk
  | .draw x y n => MatchesTable.draw x y n
  | .skipkeq x => MatchesTable.skipkeq x
  | .skipkneq x => MatchesTable.skipkneq x
  | .gdelay x => MatchesTable.gdelay x
  | .gkey x => MatchesTable.gkey x
  | .sdelay x => MatchesTable.sdelay x
  | .ssnd x => MatchesTable.ssnd x
  | .addi x => MatchesTable.addi x
  | .sprite x => MatchesTable.sprite x
  | .bcd x => MatchesTable.bcd x
  | .rdump x => MatchesTable.rdump x
  | .rload x => MatchesTable.rload x

theorem exists_row_of_decode (h : decode w = some i) :
    ∃ r ∈ opcodeTable, r.mnemonic = i.mnemonic ∧ r.selectedBy w = true := by
  obtain ⟨-, hrow⟩ := matchesTable i
  rwa [encode_of_decode h] at hrow

theorem opcodeTable_mnemonics_nodup : (opcodeTable.map OpcodeRow.mnemonic).Nodup := by decide

/-- A mnemonic names one row. -/
theorem row_eq_of_mnemonic_eq (hr : r ∈ opcodeTable) (hq : q ∈ opcodeTable)
    (h : r.mnemonic = q.mnemonic) : r = q :=
  List.inj_on_of_nodup_map opcodeTable_mnemonics_nodup hr hq h

theorem OpcodeRow.and_mask_of_selectedBy (h : r.selectedBy w = true) : w &&& r.mask = r.value :=
  eq_of_beq h

theorem OpcodeRow.fieldO_of_selectedBy (hm : r.mask = 0xF000#16) (h : r.selectedBy w = true) :
    fieldO w = fieldO r.value := by
  rw [← OpcodeRow.and_mask_of_selectedBy h, hm, Laws.MatchesTable.mask_family, fieldO_wordAddr]

theorem OpcodeRow.fieldO_fieldN_of_selectedBy (hm : r.mask = 0xF00F#16) (h : r.selectedBy w = true) :
    fieldO w = fieldO r.value ∧ fieldN w = fieldN r.value := by
  rw [← OpcodeRow.and_mask_of_selectedBy h, hm, Laws.MatchesTable.mask_nibble, fieldO_wordXyn,
    fieldN_wordXyn]
  exact ⟨rfl, rfl⟩

theorem OpcodeRow.fieldO_fieldKk_of_selectedBy (hm : r.mask = 0xF0FF#16) (h : r.selectedBy w = true) :
    fieldO w = fieldO r.value ∧ fieldKk w = fieldKk r.value := by
  rw [← OpcodeRow.and_mask_of_selectedBy h, hm, Laws.MatchesTable.mask_byte, fieldO_wordXkk,
    fieldKk_wordXkk]
  exact ⟨rfl, rfl⟩

theorem exists_decode_of_family_row (hr : r ∈ opcodeRowsByFamily) (h : r.selectedBy w = true) :
    ∃ i, decode w = some i ∧ i.mnemonic = r.mnemonic := by
  simp only [opcodeRowsByFamily, List.mem_cons, List.not_mem_nil, or_false] at hr
  obtain rfl | rfl | hr := hr
  · obtain rfl : w = 0x00E0#16 := BitVec.and_allOnes.symm.trans (OpcodeRow.and_mask_of_selectedBy h)
    exact ⟨.cls, rfl, rfl⟩
  · obtain rfl : w = 0x00EE#16 := BitVec.and_allOnes.symm.trans (OpcodeRow.and_mask_of_selectedBy h)
    exact ⟨.ret, rfl, rfl⟩
  · rcases hr with rfl | rfl | rfl | rfl | rfl | rfl | rfl | rfl | rfl | rfl <;>
    · have hO := OpcodeRow.fieldO_of_selectedBy rfl h
      unfold decode
      rw [hO]
      exact ⟨_, rfl, rfl⟩

theorem exists_decode_of_nibble_row (hr : r ∈ opcodeRowsByNibble) (h : r.selectedBy w = true) :
    ∃ i, decode w = some i ∧ i.mnemonic = r.mnemonic := by
  simp only [opcodeRowsByNibble, List.mem_cons, List.not_mem_nil, or_false] at hr
  rcases hr with rfl | rfl | rfl | rfl | rfl | rfl | rfl | rfl | rfl | rfl | rfl <;>
  · obtain ⟨hO, hn⟩ := OpcodeRow.fieldO_fieldN_of_selectedBy rfl h
    unfold decode
    rw [hO, hn]
    exact ⟨_, rfl, rfl⟩

theorem exists_decode_of_byte_row (hr : r ∈ opcodeRowsByByte) (h : r.selectedBy w = true) :
    ∃ i, decode w = some i ∧ i.mnemonic = r.mnemonic := by
  simp only [opcodeRowsByByte, List.mem_cons, List.not_mem_nil, or_false] at hr
  rcases hr with rfl | rfl | rfl | rfl | rfl | rfl | rfl | rfl | rfl | rfl | rfl <;>
  · obtain ⟨hO, hkk⟩ := OpcodeRow.fieldO_fieldKk_of_selectedBy rfl h
    unfold decode
    rw [hO, hkk]
    exact ⟨_, rfl, rfl⟩

theorem exists_decode_of_selectedBy (hr : r ∈ opcodeTable) (h : r.selectedBy w = true) :
    ∃ i, decode w = some i ∧ i.mnemonic = r.mnemonic := by
  obtain hr | hr := List.mem_append.mp hr
  · obtain hr | hr := List.mem_append.mp hr
    · exact exists_decode_of_family_row hr h
    · exact exists_decode_of_nibble_row hr h
  · exact exists_decode_of_byte_row hr h

theorem selectedBy_of_decode (hr : r ∈ opcodeTable) (hi : decode w = some i)
    (hm : i.mnemonic = r.mnemonic) : r.selectedBy w = true := by
  obtain ⟨q, hq, hqi, hsel⟩ := exists_row_of_decode hi
  rwa [row_eq_of_mnemonic_eq hr hq (hm.symm.trans hqi.symm)]

/-- Settles O2: decoding gives the mnemonic of every row the word selects, and a mnemonic names one row. -/
theorem wordsSelectOneTableRow : Obligations.WordsSelectOneTableRow := by
  refine ⟨fun w r hr => ⟨exists_decode_of_selectedBy hr, fun ⟨i, hi, hm⟩ => selectedBy_of_decode hr hi hm⟩,
    fun w r q hr hq hrw hqw => ?oneRow, fun w hno => ?noRow, rfl⟩
  case oneRow =>
    obtain ⟨i, hi, hri⟩ := exists_decode_of_selectedBy hr hrw
    obtain ⟨j, hj, hqj⟩ := exists_decode_of_selectedBy hq hqw
    obtain rfl : i = j := Option.some.inj (hi.symm.trans hj)
    exact row_eq_of_mnemonic_eq hr hq (hri.symm.trans hqj)
  case noRow =>
    cases hd : decode w with
    | none => rfl
    | some i =>
      obtain ⟨r, hr, -, hsel⟩ := exists_row_of_decode hd
      exact absurd hsel (by simp [hno r hr])

/-! ### The undefined words (R330) -/

theorem decodeAlu_eq_none_iff {x y : Reg} {n : Nibble} :
    decodeAlu x y n = none ↔ n.toNat = 0xF ∨ (8 ≤ n.toNat ∧ n.toNat ≤ 0xD) := by
  unfold decodeAlu
  split
  case h_10 => simp only [true_iff, ← BitVec.toNat_inj, imp_false] at *; bv_omega
  all_goals simp

theorem decodeKeySkip_eq_none_iff {x : Reg} {kk : Byte} :
    decodeKeySkip x kk = none ↔ kk.toNat ∉ [0x9E, 0xA1] := by
  unfold decodeKeySkip
  split
  case h_3 => simp_all [← BitVec.toNat_inj]
  all_goals simp

theorem decodeMisc_eq_none_iff {x : Reg} {kk : Byte} :
    decodeMisc x kk = none ↔ kk.toNat ∉ [0x07, 0x0A, 0x15, 0x18, 0x1E, 0x29, 0x33, 0x55, 0x65] := by
  unfold decodeMisc
  split
  case h_10 => simp_all [← BitVec.toNat_inj]
  all_goals simp

/-- Settles O3. Case `h_k` of the split is family `k - 1`: family 0 has two words, 5 and 9 want the lowest nibble
0, families 8, E and F have a decoder of their own, and in the others every word is defined. -/
theorem undefinedWordsByFamily : Obligations.UndefinedWordsByFamily := by
  intro w
  have hfam : w.toNat / 0x1000 = (fieldO w).toNat := (fieldO_toNat w).symm
  have hlow : w.toNat < 0x1000 ↔ (fieldO w).toNat = 0 := by omega
  rw [hlow, hfam, ← fieldN_toNat, ← fieldKk_toNat]
  unfold decode
  split
  case h_1 hO => simp only [hO]; split_ifs <;> simp [*]
  case h_6 hO | h_10 hO => simp [hO, ← BitVec.toNat_inj]
  case h_9 hO => simp [hO, decodeAlu_eq_none_iff]
  case h_15 hO => simp [hO, decodeKeySkip_eq_none_iff]
  case h_16 hO => simp [hO, decodeMisc_eq_none_iff]
  case h_17 => -- a nibble is one of the sixteen
    exfalso
    clear hfam hlow
    simp only [← BitVec.toNat_inj, imp_false] at *
    bv_omega
  all_goals next hO => simp [hO]

/-- Settles O4: the decoder evaluated on each word. -/
theorem writtenWordsDecode : Obligations.WrittenWordsDecode := by
  unfold Obligations.WrittenWordsDecode
  decide

end Sys2Proof
end

section
/-! Every step of a running core is a next state (R332, R820): whatever an instruction meets, it completes or
enters the fault. -/

namespace Sys2Proof.Machine

theorem State.exists_next_of_settle (s : State) (r : Except FaultKind State) : ∃ t, s.settle r = .next t := by
  cases r with
  | ok t => exact ⟨t, s.settle_ok t⟩
  | error k => exact ⟨_, s.settle_error k⟩

/-- Every meaning ends in a next state or in fault entry. -/
theorem exists_next_of_exec (i : Instr) (s : State) : ∃ t, exec i s = .next t := by
  cases i with
  | call | ret | sprite | draw | bcd | rdump | rload => exact s.exists_next_of_settle _
  | _ => exact ⟨_, rfl⟩

/-- Settles O14: phase 2 faults, which is a next state, or gives an instruction, which answers one. -/
theorem runningCoreAlwaysSteps : Obligations.RunningCoreAlwaysSteps := by
  intro s hrun
  cases hf : s.fetchInstr with
  | error k => exact ⟨_, step_of_fetchInstr_error hrun hf⟩
  | ok i => rw [step_of_fetchInstr_ok hrun hf]; exact exists_next_of_exec i s.beginStep

end Sys2Proof.Machine
end

section
/-! Control transfer (spec/40_control.md): the phases of a step, the answers of JMP, CALL, RET and PCN, and
the return of a RET to the word after its CALL (spec/90_conflicts.md C3). -/

namespace Sys2Proof.Machine

variable {s : State}

/-- Settles O12: the step of a running core, by what fetch and decode answer. -/
theorem stepRunsTheDecodedInstruction : Obligations.StepRunsTheDecodedInstruction := by
  intro s
  refine ⟨rfl, fun w i hrun hw hi => ?decoded, fun w hrun hw hu => ?undefinedWord, fun k hrun hk => ?fetchFault⟩
  case decoded => exact step_of_fetchInstr_ok hrun (State.fetchInstr_of_decode hw hi)
  case undefinedWord => exact step_of_fetchInstr_error hrun (State.fetchInstr_of_undefined hw hu)
  case fetchFault => exact step_of_fetchInstr_error hrun (State.fetchInstr_of_fetch_error hk)

/-! ### JMP and PCN -/

/-- Settles O21: JMP is one update of pc, and the operand as a word is the same number. -/
theorem jmpSetsThePc : Obligations.JmpSetsThePc := fun nnn s =>
  ⟨s.setPc (addrWord nnn), rfl, addrWord_toNat nnn, s.onlyPcMoves_setPc _, rfl⟩

/-- The target of PCN stays below 2^16, so the sum of the words is the sum of the numbers (R413). -/
theorem addrWord_add_byteWord_toNat (nnn : Addr) (b : Byte) :
    (addrWord nnn + byteWord b).toNat = nnn.toNat + b.toNat := by
  have hnnn := nnn.isLt
  have hb := b.isLt
  rw [BitVec.toNat_add, addrWord_toNat, byteWord_toNat]
  omega

/-- Settles O24: PCN is one update of pc, to a sum that does not wrap. -/
theorem pcnJumpsPastNnnByV0 : Obligations.PcnJumpsPastNnnByV0 := fun nnn s =>
  ⟨s.setPc (addrWord nnn + byteWord (s.getV 0)), rfl, addrWord_add_byteWord_toNat nnn _,
    s.onlyPcMoves_setPc _, rfl⟩

/-! ### CALL and RET -/

theorem exec_call_full (nnn : Addr) (hfull : s.sp = s.cfg.stackCapacity) :
    exec (.call nnn) s = .next (s.setHalt (some ⟨.stackOverflow, s.pc⟩)) :=
  (execCall_eq s nnn).trans (by rw [if_pos hfull])

theorem exec_call_room (nnn : Addr) (hroom : s.sp ≠ s.cfg.stackCapacity) : exec (.call nnn) s =
    .next ((s.setStack (s.sp + 1) (s.stack.set s.sp (s.pc + 2))).setPc (addrWord nnn)) :=
  (execCall_eq s nnn).trans (by rw [if_neg hroom])

theorem exec_ret_empty (hempty : s.sp = 0) :
    exec .ret s = .next (s.setHalt (some ⟨.stackUnderflow, s.pc⟩)) :=
  (execRet_eq s).trans (by rw [if_pos hempty])

theorem exec_ret_inUse (huse : s.sp ≠ 0) : exec .ret s =
    .next ((s.setStack (s.sp - 1) s.stack).setPc (s.stack.getD (s.sp - 1) 0)) :=
  (execRet_eq s).trans (by rw [if_neg huse])

/-- An update of the call stack and pc, which CALL and RET both are, leaves all else alone. -/
theorem State.setStack_setPc_frame (s : State) (n : Nat) (entries : List Word) (w : Word) :
    let t := (s.setStack n entries).setPc w
    State.RegsKeptBut [] s t ∧ t.i = s.i ∧ State.MemoryKept s t ∧ State.TimersKept s t ∧
    State.ControlKept s t ∧ t.host = s.host :=
  ⟨fun _ _ => rfl, rfl, fun _ => rfl, ⟨rfl, rfl, rfl, rfl⟩, ⟨rfl, rfl⟩, rfl⟩

/-- With room left, `sp` names an entry the stack has. -/
theorem State.WellFormed.sp_lt_length (hs : s.WellFormed) (hroom : s.sp ≠ s.cfg.stackCapacity) :
    s.sp < s.stack.length := by
  obtain ⟨-, -, hle, hlen⟩ := hs
  omega

/-- With an entry in use, the entry below `sp` is one the stack has. -/
theorem State.WellFormed.sp_pred_lt_length (hs : s.WellFormed) (huse : s.sp ≠ 0) :
    s.sp - 1 < s.stack.length := by
  obtain ⟨-, -, hle, hlen⟩ := hs
  omega

/-- Settles O22: a CALL with room writes the entry at `sp`, which the stack has, and no other. -/
theorem callPushesTheReturnAddress : Obligations.CallPushesTheReturnAddress := by
  intro nnn s hs
  refine ⟨exec_call_full nnn, fun hroom => ⟨_, exec_call_room nnn hroom, addrWord_toNat nnn, rfl, ?pushed,
    fun k hk => ?others, s.setStack_setPc_frame ..⟩⟩
  case pushed => exact List.getElem?_set_self (hs.sp_lt_length hroom)
  case others => exact List.getElem?_set_ne hk.symm

/-- Settles O23: the entry a RET reads is one the stack has, so the read's default plays no part. -/
theorem retPopsIntoThePc : Obligations.RetPopsIntoThePc := by
  intro s hs
  refine ⟨exec_ret_empty, fun huse => ⟨_, exec_ret_inUse huse, ?popped, rfl, rfl, s.setStack_setPc_frame ..⟩⟩
  have hlt := hs.sp_pred_lt_length huse
  simp [hlt]

/-- Settles O25: the RET reads the entry its CALL wrote, and `sp` falls back by the one it had grown. -/
theorem retReturnsAfterItsCall : Obligations.RetReturnsAfterItsCall := by
  intro nnn s t u hs hroom hcall hkept
  rw [exec_call_room nnn hroom] at hcall
  cases hcall
  have hsp : u.sp = s.sp + 1 := hkept.sp
  have hstack : u.stack = s.stack.set s.sp (s.pc + 2) := hkept.stack
  refine ⟨_, exec_ret_inUse (by omega), ?pc, ?sp⟩
  case pc => simp [hsp, hstack, hs.sp_lt_length hroom]
  case sp => simp [hsp]

end Sys2Proof.Machine
end

section
/-! The skips (spec/41_skip.md): each answers one `skipIf`, a key skip in the state after its draw, and its
test stands for the condition the spec compares (R440). -/

namespace Sys2Proof.Machine

variable {c : Bool} {p : Prop} [Decidable p]

/-- Where a skip whose test `c` stands for the condition `p` leaves pc. -/
theorem State.skipIf_pc (s : State) (hc : c = true ↔ p) :
    (s.skipIf c).pc = if p then s.pc + 4 else s.pc + 2 :=
  if_congr hc rfl rfl

theorem State.skipIf_moves (s : State) (hc : c = true ↔ p) :
    (s.skipIf c).pc = (if p then s.pc + 4 else s.pc + 2) ∧ State.OnlyPcMoves s (s.skipIf c) ∧
    (s.skipIf c).host = s.host :=
  ⟨s.skipIf_pc hc, s.onlyPcMoves_setPc _, rfl⟩

/-- The draw before a key skip leaves pc and the registers alone, so the skip moves as from `s`. -/
theorem State.takeKey_skipIf_moves (s : State) (hc : c = true ↔ p) :
    (s.takeKey.skipIf c).pc = (if p then s.pc + 4 else s.pc + 2) ∧
    State.OnlyPcMoves s (s.takeKey.skipIf c) ∧ (s.takeKey.skipIf c).host = s.takeKey.host :=
  ⟨s.takeKey_pc ▸ s.takeKey.skipIf_pc hc, s.onlyPcMoves_takeKey_setPc _, rfl⟩

/-- Settles O26: the four tests compare bytes by `==` and `!=`, which decide equality and its negation. -/
theorem registerSkipsMoveByFourOrTwo : Obligations.RegisterSkipsMoveByFourOrTwo := by
  intro x y kk s
  refine ⟨?skipeq, ?skipneq, ?skipreq, ?skiprneq⟩
  case skipeq => exact ⟨s.skipIf (s.getV x == kk), rfl, s.skipIf_moves beq_iff_eq⟩
  case skipneq => exact ⟨s.skipIf (s.getV x != kk), rfl, s.skipIf_moves bne_iff_ne⟩
  case skipreq => exact ⟨s.skipIf (s.getV x == s.getV y), rfl, s.skipIf_moves beq_iff_eq⟩
  case skiprneq => exact ⟨s.skipIf (s.getV x != s.getV y), rfl, s.skipIf_moves bne_iff_ne⟩

/-- Settles O27: the answer compared is the one the draw takes, and the skip follows the draw. -/
theorem keySkipsCompareTheHostsAnswer : Obligations.KeySkipsCompareTheHostsAnswer := by
  intro x s
  refine ⟨?skipkeq, ?skipkneq⟩
  case skipkeq =>
    exact ⟨s.takeKey.skipIf (s.getV x == s.keyAnswer), rfl, s.takeKey_skipIf_moves beq_iff_eq⟩
  case skipkneq =>
    exact ⟨s.takeKey.skipIf (s.getV x != s.keyAnswer), rfl, s.takeKey_skipIf_moves bne_iff_ne⟩

end Sys2Proof.Machine
end

section
/-! The ALU (spec/42_alu.md): each instruction answers one update of the registers, and of the host's answers
for RAND, then the advance. The flag is the last register write, so it wins over a destination VF (R531). -/

namespace Sys2Proof.Machine

variable (s : State) (x : Reg)

/-! ### What an update of the registers leaves alone, and what the written registers read -/

/-- An instruction whose answer differs from `s` in V, pc and the host's answers alone: its row of R101 says
which registers it keeps, and everything else is as before. -/
theorem exec_frame_of_registers {i : Instr} {s t : State} {v : Vector Byte 16} {inp : HostInputs}
    (h : exec i s = .next t) (ht : t = { s with v := v, pc := s.pc + 2, host := inp }) :
    State.RegsKeptBut (writtenRegs i) s t ∧ t.pc = s.pc + 2 ∧ t.i = s.i ∧ State.MemoryKept s t ∧
    State.RestKept s t ∧ t.host = inp := by
  refine ⟨exec_regsKept h, ?_⟩
  subst ht
  exact ⟨rfl, rfl, fun _ => rfl, ⟨⟨rfl, rfl⟩, ⟨rfl, rfl, rfl, rfl⟩, ⟨rfl, rfl⟩⟩, rfl⟩

theorem State.getV_advance_setV (b : Byte) : (s.setV x b).advance.getV x = b :=
  s.getV_setV_same x b

/-- A destination other than VF keeps its result past the flag write. -/
theorem State.getV_advance_setFlag_setV {x : Reg} (hx : x ≠ 0xF) (b f : Byte) :
    ((s.setV x b).setFlag f).advance.getV x = b :=
  (State.getV_setFlag_other _ f hx).trans (s.getV_setV_same x b)

/-- The source of a shift holds the result too, whether or not it is also the destination. -/
theorem State.getV_advance_setFlag_setV_source {y : Reg} (hy : y ≠ 0xF) (b f : Byte) :
    (((s.setV y b).setV x b).setFlag f).advance.getV y = b := by
  refine (State.getV_setFlag_other _ f hy).trans ?_
  rw [State.getV_setV, State.getV_setV_same, ite_self]

/-! ### Results and flags as numbers -/

theorem flagOf_decide (p : Prop) [Decidable p] : flagOf (decide p) = if p then 1 else 0 :=
  if_congr decide_eq_true_iff rfl rfl

theorem byte_sub_toNat (a b : Byte) : (a - b).toNat = (a.toNat + 256 - b.toNat) % 256 := by
  have hb := b.isLt
  rw [BitVec.toNat_sub]
  omega

theorem byte_ushiftRight_one_toNat (b : Byte) : (b >>> 1).toNat = b.toNat / 2 := by
  rw [BitVec.toNat_ushiftRight, Nat.shiftRight_one]

theorem byte_shiftLeft_one_toNat (b : Byte) : (b <<< 1).toNat = 2 * b.toNat % 256 := by
  rw [BitVec.toNat_shiftLeft, Nat.shiftLeft_eq, Nat.pow_one, Nat.mul_comm]

/-! ### The flag writers -/

/-- Settles O30: Vx and the carry are both computed from the old registers, and the flag is written last. -/
theorem addrSetsTheCarry : Obligations.AddrSetsTheCarry := by
  intro x y s
  refine ⟨_, rfl, fun hx => ?sum, ?carry, exec_frame_of_registers (i := .addr x y) rfl rfl⟩
  case sum => rw [State.getV_advance_setFlag_setV s hx, BitVec.toNat_add]
  case carry => rw [State.getV_advance_setFlag, carryFlag, flagOf_decide]

/-- Settles O31: SUBR and RSUB are one difference and one flag with the operands exchanged. -/
theorem subtractionsSetNotBorrow : Obligations.SubtractionsSetNotBorrow := by
  intro x y s
  refine ⟨⟨_, rfl, fun hx => ?subrDifference, ?subrFlag, exec_frame_of_registers (i := .subr x y) rfl rfl⟩,
    ⟨_, rfl, fun hx => ?rsubDifference, ?rsubFlag, exec_frame_of_registers (i := .rsub x y) rfl rfl⟩⟩
  case subrDifference | rsubDifference => rw [State.getV_advance_setFlag_setV s hx, byte_sub_toNat]
  case subrFlag | rsubFlag => rw [State.getV_advance_setFlag, noBorrowFlag, flagOf_decide]

/-- Settles O32: both writes put the same byte, so only the write of the flag, the last one, can replace it. -/
theorem shiftsWriteVyVxAndTheBitShiftedOut : Obligations.ShiftsWriteVyVxAndTheBitShiftedOut := by
  intro x y s
  refine ⟨⟨_, rfl, fun hx => ?srVx, fun hy => ?srVy, ?srBit, exec_frame_of_registers (i := .sr x y) rfl rfl⟩,
    ⟨_, rfl, fun hx => ?slVx, fun hy => ?slVy, ?slBit, exec_frame_of_registers (i := .sl x y) rfl rfl⟩⟩
  case srVx => rw [State.getV_advance_setFlag_setV _ hx, byte_ushiftRight_one_toNat]
  case srVy => rw [State.getV_advance_setFlag_setV_source s x hy, byte_ushiftRight_one_toNat]
  case srBit => rw [State.getV_advance_setFlag, shiftedOutRight_toNat]
  case slVx => rw [State.getV_advance_setFlag_setV _ hx, byte_shiftLeft_one_toNat]
  case slVy => rw [State.getV_advance_setFlag_setV_source s x hy, byte_shiftLeft_one_toNat]
  case slBit => rw [State.getV_advance_setFlag, shiftedOutLeft_toNat]

/-! ### The instructions that write Vx alone -/

/-- Settles O28: each is one write of Vx, so VF is kept like every other register. -/
theorem movesAndAddImmediate : Obligations.MovesAndAddImmediate := by
  intro x y kk s
  refine ⟨⟨_, rfl, ?mov, exec_frame_of_registers (i := .mov x kk) rfl rfl⟩,
    ⟨_, rfl, ?add, exec_frame_of_registers (i := .add x kk) rfl rfl⟩,
    ⟨_, rfl, ?movr, exec_frame_of_registers (i := .movr x y) rfl rfl⟩⟩
  case mov | movr => exact s.getV_advance_setV x _
  case add => rw [State.getV_advance_setV, BitVec.toNat_add]

/-- Settles O29: each is one write of Vx, whose bits are the operation's. -/
theorem bitwiseOperationsLeaveVF : Obligations.BitwiseOperationsLeaveVF := by
  intro x y s
  refine ⟨⟨_, rfl, fun j => ?or, exec_frame_of_registers (i := .or x y) rfl rfl⟩,
    ⟨_, rfl, fun j => ?and, exec_frame_of_registers (i := .and x y) rfl rfl⟩,
    ⟨_, rfl, fun j => ?xor, exec_frame_of_registers (i := .xor x y) rfl rfl⟩⟩
  case or => rw [State.getV_advance_setV, BitVec.getLsbD_or]
  case and => rw [State.getV_advance_setV, BitVec.getLsbD_and]
  case xor => rw [State.getV_advance_setV, BitVec.getLsbD_xor]

/-- RAND's draw changes the host's answers alone, so RAND is one register write after it. -/
theorem exec_rand (kk : Byte) : exec (.rand x kk) s =
    .next ((s.setHost s.takeRand.host).setV x (s.randAnswer &&& kk)).advance :=
  congrArg (fun u : State => Host.Outcome.next (u.setV x (s.randAnswer &&& kk)).advance) s.takeRand_eq

/-- Settles O33: the byte masked is the one the draw takes, scripted or free. -/
theorem randMasksTheHostsByte : Obligations.RandMasksTheHostsByte := by
  intro x kk s
  refine ⟨_, exec_rand s x kk, fun j => ?masked, exec_frame_of_registers (exec_rand s x kk) rfl⟩
  case masked => rw [State.getV_advance_setV, BitVec.getLsbD_and]

end Sys2Proof.Machine
end

section
/-! The index register and memory instructions (spec/43_index_memory.md): SI, ADDI and SPRITE are one update
of I; a transfer touches the bytes from I on, or takes the fault of the lowest failing one (R591). -/

namespace Sys2Proof.Machine

variable {s : State}

/-! ### Transfers complete or fault (R591) -/

/-- DRAW, BCD, RDUMP and RLOAD enter the fault of their first failing access from the state before any write. -/
theorem exec_of_firstFault {i : Instr} {f : FaultKind} (h : s.FirstFault (transferBytes i) f) :
    exec i s = .next (s.setHalt (some ⟨f, s.pc⟩)) := by
  obtain ⟨k, hk, hj, hf⟩ := h
  obtain ⟨hdraw, hbcd, hrdump, hrload⟩ := exec_transfer_error s i hk hj hf
  cases i with
  | draw x y n => simp only [exec, execDraw, hdraw x y n rfl, Except.map, State.settle_error]
  | bcd x => simp only [exec, execBcd, hbcd x rfl, Except.map, State.settle_error]
  | rdump x => simp only [exec, execRdump, hrdump x rfl, Except.map, State.settle_error]
  | rload x => simp only [exec, execRload, hrload x rfl, Except.map, State.settle_error]
  | _ => exact absurd hk (Nat.not_lt_zero k)

/-- With every byte accessible, a transfer completes and so leaves the halt record alone. -/
theorem exec_transfer_of_accessible {i : Instr} (hpos : 0 < transferBytes i)
    (ha : s.Accessible (transferBytes i)) : ∃ t, exec i s = .next t ∧ t.halt = s.halt := by
  cases i with
  | draw x y n => exact ⟨_, execDraw_ok s x y n ha, rfl⟩
  | bcd x => exact ⟨_, execBcd_ok s x ha, rfl⟩
  | rdump x => exact ⟨_, execRdump_ok s x ha, rfl⟩
  | rload x => exact ⟨_, execRload_ok s x ha, State.loadV_halt ..⟩
  | _ => exact absurd hpos (Nat.lt_irrefl 0)

/-- Settles O39: a transfer has access to all its bytes, or a first one fails and its fault halts the core. -/
theorem transfersFaultAtTheLowestAddress : Obligations.TransfersFaultAtTheLowestAddress := by
  intro i s hpos
  refine ⟨fun k f hk hj hf => exec_of_firstFault ⟨k, hk, hj, hf⟩,
    fun hrun => ⟨fun ha => ?completes, fun ⟨t, ht, hnone⟩ => ?accessible⟩⟩
  case completes =>
    obtain ⟨t, ht, hhalt⟩ := exec_transfer_of_accessible hpos ha
    exact ⟨t, ht, hhalt.trans hrun⟩
  case accessible =>
    obtain ha | ⟨k, f, hfirst⟩ := s.accessible_or_fault (transferBytes i)
    · exact ha
    · rw [exec_of_firstFault ⟨k, hfirst⟩] at ht
      cases ht
      cases hnone

/-! ### What BCD and RDUMP store -/

/-- A byte stored from I on, read back. -/
theorem State.byte_setMem_store (hs : s.WellFormed) {bs : List Byte} (ha : s.Accessible bs.length) {k : Nat}
    (hk : k < bs.length) :
    (s.setMem (Memory.store s.cfg s.mem s.i.toNat bs)).byte (s.i.toNat + k) = bs.getD k 0 := by
  obtain ⟨-, hmem, -⟩ := hs
  have hend := (ha.lt (Nat.sub_one_lt_of_lt hk)).2
  rw [State.byte_setMem, Memory.read_store hmem (by omega), if_pos (by omega), Nat.add_sub_cancel_left]

theorem State.memoryKeptOutside_store (s : State) (a : Nat) (bs : List Byte) :
    State.MemoryKeptOutside a bs.length s (s.setMem (Memory.store s.cfg s.mem a bs)) :=
  fun _ => Memory.read_store_outside s.cfg s.mem

/-- The three digits as numbers. -/
theorem bcdDigits_toNat (v : Byte) :
    ((bcdDigits v).getD 0 0).toNat = v.toNat / 100 ∧ ((bcdDigits v).getD 1 0).toNat = v.toNat / 10 % 10 ∧
    ((bcdDigits v).getD 2 0).toNat = v.toNat % 10 := by
  have hv := v.isLt
  simp only [bcdDigits, List.getD_cons_zero, List.getD_cons_succ, BitVec.toNat_ofNat]
  omega

/-- Settles O36: with the three bytes accessible BCD is one store, of the digits in order. -/
theorem bcdStoresThreeDigits : Obligations.BcdStoresThreeDigits := by
  intro x s hs
  refine ⟨fun ha => ?_, fun f => exec_of_firstFault (i := .bcd x)⟩
  obtain ⟨hhundreds, htens, hones⟩ := bcdDigits_toNat (s.getV x)
  have hstored (k : Nat) (hk : k < 3) := State.byte_setMem_store hs (bs := bcdDigits (s.getV x)) ha hk
  exact ⟨_, execBcd_ok s x ha, (congrArg _ (hstored 0 (by decide))).trans hhundreds,
    (congrArg _ (hstored 1 (by decide))).trans htens, (congrArg _ (hstored 2 (by decide))).trans hones,
    s.memoryKeptOutside_store _ (bcdDigits (s.getV x)), fun _ _ => rfl, rfl, rfl,
    ((State.RestKept.refl s).setMem _).setPc _, rfl⟩

/-- `I <- (I + x + 1) mod 2^16`, as a number (R630, R640). -/
theorem index_past_transfer_toNat (w : Word) (x : Reg) :
    (w + BitVec.ofNat 16 (x.toNat + 1)).toNat = (w.toNat + x.toNat + 1) % 0x10000 := by
  rw [BitVec.toNat_add, BitVec.toNat_ofNat, Nat.add_mod_mod, Nat.add_assoc]

/-- Settles O37: with the bytes accessible RDUMP is one store, of the registers in order, and one update of I. -/
theorem rdumpStoresV0ToVx : Obligations.RdumpStoresV0ToVx := by
  intro x s hs
  refine ⟨fun ha => ⟨_, execRdump_ok s x ha, fun k hk => ?stored, ?outside,
    index_past_transfer_toNat s.i x, fun _ _ => rfl, rfl,
    (((State.RestKept.refl s).setMem _).setI _).setPc _, rfl⟩, fun f => exec_of_firstFault (i := .rdump x)⟩
  case stored =>
    have hlt : k.toNat < x.toNat + 1 := Nat.lt_succ_of_le hk
    rw [State.byte_setPc, State.byte_setI, State.byte_setMem_store hs (by rwa [State.dumpedV_length])
      (by rwa [State.dumpedV_length]), State.dumpedV_getD s hlt, BitVec.ofNat_toNat, BitVec.setWidth_eq]
  case outside =>
    have hkept := s.memoryKeptOutside_store s.i.toNat (s.dumpedV (x.toNat + 1))
    rwa [State.dumpedV_length] at hkept

/-! ### What RLOAD loads -/

/-- A register after the bytes from I on are loaded into V0..Vx. -/
theorem State.getV_loadV_fromIndex (s : State) (x k : Reg) :
    (s.loadV 0 ((List.range (x.toNat + 1)).map fun j => s.byte (s.i.toNat + j))).getV k =
      if k.toNat ≤ x.toNat then s.byte (s.i.toNat + k.toNat) else s.getV k := by
  have hx := x.isLt
  rw [State.getV_loadV _ _ _ (by simp only [List.length_map, List.length_range]; omega)]
  simp only [List.length_map, List.length_range]
  split
  · next hin =>
    have hlt : k.toNat < x.toNat + 1 := by omega
    rw [if_pos (by omega)]
    simp [hlt]
  · next hout => rw [if_neg (by omega)]

/-- Settles O38: every byte is read before the first register write, and I moves after the last. -/
theorem rloadLoadsV0ToVx : Obligations.RloadLoadsV0ToVx := by
  intro x s
  refine ⟨fun ha => ⟨_, execRload_ok s x ha, fun k hk => ?loaded, fun k hk => ?above,
    index_past_transfer_toNat _ x, fun a => ?memory, rfl,
    (((State.RestKept.refl s).loadV _ _).setI _).setPc _, State.loadV_host ..⟩,
    fun f => exec_of_firstFault (i := .rload x)⟩
  case loaded => exact (s.getV_loadV_fromIndex x k).trans (if_pos hk)
  case above => exact (s.getV_loadV_fromIndex x k).trans (if_neg (Nat.not_le.mpr hk))
  case memory => exact State.byte_loadV s _ _ a

/-! ### SI, ADDI and SPRITE -/

/-- An update of I and the advance leave all else alone. -/
theorem State.setI_advance_frame (s : State) (w : Word) :
    let t := (s.setI w).advance
    State.RegsKeptBut [] s t ∧ t.pc = s.pc + 2 ∧ State.MemoryKept s t ∧ State.RestKept s t ∧
    t.host = s.host :=
  ⟨fun _ _ => rfl, rfl, fun _ => rfl, ((State.RestKept.refl s).setI w).setPc _, rfl⟩

/-- Settles O34: each is one update of I, by words that read as the operand and as Vx. -/
theorem indexIsSetAndAdvanced : Obligations.IndexIsSetAndAdvanced := by
  intro nnn x s
  refine ⟨⟨_, rfl, addrWord_toNat nnn, s.setI_advance_frame _⟩, ⟨_, rfl, ?sum, s.setI_advance_frame _⟩⟩
  case sum => exact (BitVec.toNat_add ..).trans (by rw [byteWord_toNat])

/-- The font lies below 0x200 (R11), so the address of a glyph does not wrap. -/
theorem glyphAddress_toNat {c : Config} (hc : c.WellFormed) {d : Byte} (hd : d.toNat ≤ 0xF) :
    (glyphAddress c d).toNat = c.fontBase + 5 * d.toNat := by
  obtain ⟨-, hfont, -⟩ := hc
  rw [glyphAddress, BitVec.toNat_ofNat, Nat.mod_eq_of_lt (by unfold glyphBytes; omega)]

/-- Settles O35: the digit decides between one update of I and the fault. -/
theorem spritePointsAtTheGlyph : Obligations.SpritePointsAtTheGlyph := by
  intro x s hc
  refine ⟨fun hd => ⟨_, ?glyph, glyphAddress_toNat hc hd, s.setI_advance_frame _⟩, fun hd => ?fault⟩
  case glyph => exact (execSprite_eq s x).trans (congrArg _ (if_neg (Nat.not_lt.mpr hd)))
  case fault => exact (execSprite_eq s x).trans (congrArg _ (if_pos hd))

end Sys2Proof.Machine
end

section
/-! Timer and key instructions (spec/44_timer_key.md): GDELAY and GKEY are one register write, SDELAY and SSND
one update of a timer; what the host sees of a held GKEY, and the ticks of its wait (R663, R863). -/

namespace Sys2Proof.Machine

variable {s t : State}

/-! ### The timer instructions -/

/-- An update of the two timers and the advance leave all else alone. -/
theorem State.setDt_setSt_advance_frame (s : State) (d b : Byte) :
    let t := ((s.setDt d).setSt b).advance
    t.tRef = s.tRef ∧ t.ticks = s.ticks ∧ State.RegsKeptBut [] s t ∧ t.pc = s.pc + 2 ∧ t.i = s.i ∧
    State.MemoryKept s t ∧ State.StackKept s t ∧ State.ControlKept s t ∧ t.host = s.host :=
  ⟨rfl, rfl, fun _ _ => rfl, rfl, rfl, fun _ => rfl, ⟨rfl, rfl⟩, ⟨rfl, rfl⟩, rfl⟩

/-- Settles O41: GDELAY is one write of Vx, and each of the others updates one timer and keeps the other. -/
theorem timerInstructionsMoveOneByte : Obligations.TimerInstructionsMoveOneByte := by
  intro x s
  refine ⟨⟨_, rfl, ?vx, exec_frame_of_registers (i := .gdelay x) rfl rfl⟩,
    ⟨_, rfl, rfl, rfl, ?sdelayFrame⟩, ⟨_, rfl, rfl, rfl, ?ssndFrame⟩⟩
  case vx => exact s.getV_advance_setV x s.dt
  case sdelayFrame => exact s.setDt_setSt_advance_frame (s.getV x) s.st
  case ssndFrame => exact s.setDt_setSt_advance_frame s.dt (s.getV x)

/-! ### The key that ends a wait -/

/-- GKEY's draw changes the host's answers alone, so GKEY is one register write after it. -/
theorem exec_gkey (x : Reg) (s : State) : exec (.gkey x) s =
    .next ((s.setHost s.takeAwaitedKey.host).setV x s.awaitedKey).advance :=
  congrArg (fun u : State => Host.Outcome.next (u.setV x s.awaitedKey).advance) s.takeAwaitedKey_eq

/-- The scripted answers from the first key on, when those before that key are above 0xF. -/
theorem keysFromTheFirst_append_key {ignored rest : List Byte} {k : Byte}
    (hignored : ∀ b ∈ ignored, 0xF < b.toNat) (hk : k.toNat ≤ 0xF) :
    keysFromTheFirst (ignored ++ k :: rest) = k :: rest :=
  (keysFromTheFirst_append hignored _).trans (if_pos hk)

theorem State.awaitedKey_of_keysFromTheFirst {k : Byte} {rest : List Byte}
    (h : keysFromTheFirst s.host.keys = k :: rest) : s.awaitedKey = k := by
  simp only [State.awaitedKey, h]

theorem State.takeAwaitedKey_host_of_keysFromTheFirst {k : Byte} {rest : List Byte}
    (h : keysFromTheFirst s.host.keys = k :: rest) :
    s.takeAwaitedKey.host = { s.host with keys := rest } := by
  simp only [State.takeAwaitedKey, h, State.setHost_host]

/-- Settles O42: the key stored is the one the draw takes, the first scripted answer up to 0xF if there is one. -/
theorem gkeyStoresTheKeyThatEndsTheWait : Obligations.GkeyStoresTheKeyThatEndsTheWait := by
  intro x s
  refine ⟨⟨_, exec_gkey x s, ?stored, ?bound, exec_frame_of_registers (exec_gkey x s) rfl⟩,
    fun ignored rest k hkeys hignored hk => ?firstKey⟩
  case stored => exact State.getV_advance_setV _ x _
  case bound => rw [State.getV_advance_setV]; exact s.awaitedKey_le
  case firstKey =>
    have hfirst : keysFromTheFirst s.host.keys = k :: rest := by
      rw [hkeys, keysFromTheFirst_append_key hignored hk]
    exact ⟨State.awaitedKey_of_keysFromTheFirst hfirst, State.takeAwaitedKey_host_of_keysFromTheFirst hfirst⟩

/-! ### Reconciliation reads and writes the timers alone -/

theorem State.TimersKept.trans {u : State} (h : State.TimersKept s t) (k : State.TimersKept t u) :
    State.TimersKept s u :=
  ⟨k.dt.trans h.dt, k.st.trans h.st, k.tRef.trans h.tRef, k.ticks.trans h.ticks⟩

theorem State.timersKept_takeNow (s : State) : State.TimersKept s s.takeNow :=
  ⟨s.takeNow_dt, s.takeNow_st, s.takeNow_tRef, s.takeNow_ticks⟩

/-- Equal timers are equal after a reconciliation at the same reading. -/
theorem State.TimersKept.reconcile (h : State.TimersKept s t) (now : Nat) :
    State.TimersKept (s.reconcile now) (t.reconcile now) := by
  obtain ⟨hdt, hst, htRef, hticks⟩ := h
  constructor
  case dt => rw [State.reconcile_dt, State.reconcile_dt, hdt, htRef, hticks]
  case st => rw [State.reconcile_st, State.reconcile_st, hst, htRef, hticks]
  case tRef => exact htRef
  case ticks => rw [State.reconcile_ticks, State.reconcile_ticks, htRef, hticks]

/-- The ticks owed at an earlier reading and those still owed at a later one are those owed at the later one
(R845). -/
theorem owed_add_owed (ticks : Nat) {a b : Nat} (h : a ≤ b) : a - ticks + (b - max ticks a) = b - ticks := by
  omega

/-- A reconciliation at a later reading makes an earlier one superfluous (R845). -/
theorem State.reconcile_reconcile (s : State) {earlier later : Nat} (h : earlier ≤ later) :
    (s.reconcile earlier).reconcile later = s.reconcile later := by
  have hmono := expectedTicks_mono s.tRef h
  have hticks : max (max s.ticks (expectedTicks s.tRef earlier)) (expectedTicks s.tRef later) =
      max s.ticks (expectedTicks s.tRef later) := by rw [max_assoc, max_eq_right hmono]
  simp only [State.reconcile, owedTicks_eq]
  simp [State.setDt, State.setSt, State.setTicks, countDown_countDown, owed_add_owed s.ticks hmono, hticks]

/-! ### What the host sees of a held GKEY -/

theorem State.heldView_of_gkey {x : Reg} (hrun : s.halt = none) (hi : s.fetchInstr = .ok (.gkey x)) :
    s.heldView = some s.beginStep := by
  simp only [State.heldView, hrun, hi]

/-- Only a running core whose next instruction is a GKEY has a held view. -/
theorem State.heldView_eq_none (h : s.halt = none → ∀ x, s.fetchInstr ≠ .ok (.gkey x)) :
    s.heldView = none := by
  unfold State.heldView
  split
  · next x hrun hi => exact absurd hi (h hrun x)
  · rfl

/-- Settles O43: the step that ends the wait writes no timer and draws no reading of the clock, so the next
reconciliation meets the timers phase 1 left and applies the wait's ticks at once. -/
theorem heldGkeyKeepsTheReconciledState : Obligations.HeldGkeyKeepsTheReconciledState := by
  intro s
  refine ⟨fun x hrun hi => ?held, fun r hhalt => ?halted, fun i hi hother => ?other, fun k hk => ?faulting⟩
  case held =>
    obtain ⟨⟨t, hexec, -, -, -, -, -, -, hrest, hhost⟩, -⟩ := gkeyStoresTheKeyThatEndsTheWait x s.beginStep
    refine ⟨s.beginStep, t, State.heldView_of_gkey hrun hi, rfl, s.beginStep_pc,
      fun r _ => s.getV_beginStep r, s.beginStep_i, s.byte_beginStep, ⟨s.beginStep_sp, s.beginStep_stack⟩,
      ⟨s.beginStep_halt, s.beginStep_cfg⟩, (step_of_fetchInstr_ok hrun hi).trans hexec, hrest.timers,
      ?clock, fun later hle => ?later⟩
    case clock => rw [hhost, State.takeAwaitedKey_clock]
    case later =>
      have hwait : State.TimersKept (s.takeNow.reconcile later) (t.reconcile later) :=
        s.takeNow.reconcile_reconcile hle ▸ hrest.timers.reconcile later
      obtain ⟨hdt, hst, -, hticks⟩ := (s.timersKept_takeNow.reconcile later).trans hwait
      exact ⟨hdt, hst, hticks⟩
  case halted => exact State.heldView_eq_none fun hrun => nomatch hhalt.symm.trans hrun
  case other => exact State.heldView_eq_none fun _ x hg => hother x (Except.ok.inj (hi.symm.trans hg))
  case faulting => exact State.heldView_eq_none fun _ _ hg => nomatch hk.symm.trans hg

end Sys2Proof.Machine
end

section
/-! The display (spec/45_display.md): the pixel port, CLS, and DRAW, whose answer is one named state, so that
drawing twice is two uses of the laws of one draw. -/

namespace Sys2Proof.Machine

variable {s t : State} {x y : Reg} {n : Nibble} {px py X Y : Nat}

/-! ### Pixels and bytes of the frame (R700, R702) -/

theorem State.pixel_of_lt (hX : X < 64) (hY : Y < 32) : s.pixel X Y = some (s.lit X Y) := by
  rw [State.pixel, if_pos (onScreen_iff.mpr ⟨hX, hY⟩), State.lit_eq]

theorem State.pixel_outside (h : 64 ≤ X ∨ 32 ≤ Y) : s.pixel X Y = none := by
  have hoff : ¬ onScreen X Y = true := by rw [onScreen_iff]; omega
  exact if_neg hoff

/-- Settles O11: the test of the port is the frame's bounds, and its mask picks the bit. -/
theorem pixelPortReadsTheFrame : Obligations.PixelPortReadsTheFrame :=
  fun _ _ _ => ⟨State.pixel_of_lt, State.pixel_outside⟩

theorem State.lit_of_frame_zero (hzero : ∀ k, k < 256 → s.byte (s.cfg.frameBase + k) = 0) (hX : X < 64)
    (hY : Y < 32) : s.lit X Y = false := by
  rw [State.lit, hzero _ (by omega)]
  exact BitVec.getLsbD_zero

/-- The pixels determine every bit of the frame: bit `j` of byte `k` is pixel (k % 8 * 8 + j, k / 8). -/
theorem State.frame_byte_eq_of_lit_eq (hcfg : t.cfg = s.cfg)
    (hlit : ∀ X Y, X < 64 → Y < 32 → t.lit X Y = s.lit X Y) {k : Nat} (hk : k < 256) :
    t.byte (s.cfg.frameBase + k) = s.byte (s.cfg.frameBase + k) := by
  refine BitVec.eq_of_getLsbD_eq fun j hj => ?_
  have hbit := hlit (k % 8 * 8 + j) (k / 8) (by omega) (by omega)
  have hbyte : (k % 8 * 8 + j) / 8 + k / 8 * 8 = k := by omega
  have hpos : (k % 8 * 8 + j) % 8 = j := by omega
  rwa [State.lit, State.lit, hcfg, hbyte, hpos] at hbit

/-- Memory is kept where it is kept outside the frame and every pixel is as before. -/
theorem State.memoryKept_of_lit_eq (hcfg : t.cfg = s.cfg)
    (hout : State.MemoryKeptOutside s.cfg.frameBase 256 s t)
    (hlit : ∀ X Y, X < 64 → Y < 32 → t.lit X Y = s.lit X Y) : State.MemoryKept s t := by
  intro a
  by_cases hin : s.cfg.frameBase ≤ a ∧ a < s.cfg.frameBase + 256
  · obtain ⟨k, rfl⟩ := Nat.exists_eq_add_of_le hin.1
    exact State.frame_byte_eq_of_lit_eq hcfg hlit (by omega)
  · exact hout a hin

/-! ### CLS (R710) -/

/-- Settles O44: CLS is one update of memory, which zeroes the 256 bytes and so the bit of every pixel. The
cleared memory gets a name, so that no comparison of states unrolls its 256 writes. -/
theorem clsTurnsEveryPixelOff : Obligations.ClsTurnsEveryPixelOff := by
  intro s hs
  obtain ⟨hcfg, hmem, -⟩ := hs
  have hexec := execCls_eq s
  have hcleared := frameRead_clearFrame hcfg hmem (Nat.le_refl 256)
  have hout (a : Nat) := clearFrame_outside (c := s.cfg) (a := a) s.mem (Nat.le_refl 256)
  generalize clearFrame s.cfg s.mem 256 = m at hexec hcleared hout
  have hzero (k : Nat) (hk : k < 256) : frameRead s.cfg m k = 0 := (hcleared k).trans (if_pos hk)
  refine ⟨_, hexec, hzero, fun X Y hX hY => ?pixel, hout, (State.regsKeptBut_refl [] s).setMem m, rfl, rfl,
    ((State.RestKept.refl s).setMem m).setPc _, rfl⟩
  case pixel => rw [State.pixel_of_lt hX hY]; exact congrArg some (State.lit_of_frame_zero hzero hX hY)

/-! ### One DRAW (R720) -/

/-- The state DRAW leaves when all its rows are accessible. -/
def State.drawn (s : State) (x y : Reg) (n : Nibble) : State :=
  s.drawRows (s.getV x) (s.getV y) ((List.range n.toNat).map fun k => s.byte (s.i.toNat + k))

theorem exec_draw_of_accessible (ha : s.Accessible n.toNat) :
    exec (.draw x y n) s = .next (s.drawn x y n) :=
  execDraw_ok s x y n ha

/-- Each pixel is XORed with the sprite's bit there, the sprite placed at (Vx, Vy). -/
theorem State.lit_drawn (hs : s.WellFormed) (hX : X < 64) (hY : Y < 32) : (s.drawn x y n).lit X Y =
    (s.lit X Y ^^ s.spriteBit (s.getV x).toNat (s.getV y).toNat n.toNat X Y) := by
  obtain ⟨-, hlit, -⟩ := s.blit_sprite hs (s.getV x).toNat (s.getV y).toNat n.toNat
  exact (State.lit_eq _ X Y).trans (hlit X Y hX hY)

theorem State.getV_drawn_flagReg (s : State) (x y : Reg) (n : Nibble) : (s.drawn x y n).getV 0xF =
    flagOf (blit s.cfg s.mem (spritePixels (s.getV x).toNat (s.getV y).toNat
      ((List.range n.toNat).map fun k => s.byte (s.i.toNat + k)))).hit :=
  State.getV_advance_setFlag _ _

theorem State.drawn_collides_iff (hs : s.WellFormed) : (s.drawn x y n).getV 0xF = 1 ↔
    ∃ X Y, X < 64 ∧ Y < 32 ∧ s.lit X Y = true ∧
      s.spriteBit (s.getV x).toNat (s.getV y).toNat n.toNat X Y = true := by
  obtain ⟨-, -, hhit, -⟩ := s.blit_sprite hs (s.getV x).toNat (s.getV y).toNat n.toNat
  rw [State.getV_drawn_flagReg, flagOf_eq_one, hhit]

theorem State.memoryKeptOutside_drawn (hs : s.WellFormed) :
    State.MemoryKeptOutside s.cfg.frameBase 256 s (s.drawn x y n) := by
  obtain ⟨-, -, -, hout⟩ := s.blit_sprite hs (s.getV x).toNat (s.getV y).toNat n.toNat
  exact hout

theorem State.regsKeptBut_drawn (s : State) (x y : Reg) (n : Nibble) :
    State.RegsKeptBut [0xF] s (s.drawn x y n) :=
  ((State.regsKeptBut_refl [0xF] s).setMem _).setV _ (List.mem_singleton_self _)

theorem State.restKept_drawn (s : State) (x y : Reg) (n : Nibble) : State.RestKept s (s.drawn x y n) :=
  (((State.RestKept.refl s).setMem _).setV _ _).setPc _

/-- Settles O45: with all rows accessible the answer is `State.drawn`, and otherwise the first fault's. -/
theorem drawXorsTheSpriteIntoTheFrame : Obligations.DrawXorsTheSpriteIntoTheFrame := by
  rintro x y n s _ _ hs rfl rfl
  refine ⟨fun ha => ⟨_, exec_draw_of_accessible ha, fun X Y hX hY => ?pixel, ?flag,
    State.drawn_collides_iff hs, State.memoryKeptOutside_drawn hs, s.regsKeptBut_drawn x y n, rfl, rfl,
    s.restKept_drawn x y n, rfl⟩, fun f => exec_of_firstFault (i := .draw x y n)⟩
  case pixel => rw [State.pixel_of_lt hX hY, State.lit_drawn hs hX hY]
  case flag => rw [State.getV_drawn_flagReg]; exact flagOf_zero_or_one _

/-! ### The same DRAW again (L1.9, L3.3) -/

theorem State.Accessible.congr {k : Nat} (ha : s.Accessible k) (hi : t.i = s.i) (hcfg : t.cfg = s.cfg) :
    t.Accessible k := by
  simpa only [State.Accessible, hi, hcfg] using ha

/-- The sprite is the rows at I, whatever else changes. -/
theorem State.spriteBit_congr {k : Nat} (hi : t.i = s.i)
    (hrows : ∀ j, j < k → t.byte (s.i.toNat + j) = s.byte (s.i.toNat + j)) :
    t.spriteBit px py k X Y = s.spriteBit px py k X Y := by
  unfold State.spriteBit
  by_cases hin : px ≤ X ∧ X < px + 8 ∧ py ≤ Y ∧ Y < py + k
  · rw [hi, hrows (Y - py) (by omega)]
  · rw [decide_eq_false hin, Bool.false_and, Bool.false_and]

/-- An accessible sprite lies below the reserved region and so outside the frame (R11): drawing it leaves its
own rows alone. -/
theorem State.spriteBit_drawn (hs : s.WellFormed) (ha : s.Accessible n.toNat) :
    (s.drawn x y n).spriteBit px py n.toNat X Y = s.spriteBit px py n.toNat X Y := by
  obtain ⟨-, -, -, -, hreserved, -⟩ := hs.1
  refine State.spriteBit_congr rfl fun j hj => State.memoryKeptOutside_drawn hs _ ?_
  have hbelow := (ha.lt hj).1
  omega

/-- A register other than VF names the same coordinate for the second draw. -/
theorem State.getV_drawn_of_ne {r : Reg} (hr : r ≠ 0xF) : (s.drawn x y n).getV r = s.getV r :=
  s.regsKeptBut_drawn x y n r (by rwa [List.mem_singleton])

/-- Settles O46: both draws XOR the same sprite, so every pixel is back, and the second one meets as lit
exactly the sprite's pixels that were off. -/
theorem drawingTwiceRestoresTheFrame : Obligations.DrawingTwiceRestoresTheFrame := by
  rintro x y n s t _ _ hs ha hx hy rfl rfl hexec
  have ht : t.WellFormed := exec_wellFormed hs hexec
  obtain rfl : s.drawn x y n = t := Host.Outcome.next.inj ((exec_draw_of_accessible ha).symm.trans hexec)
  have hsprite (X Y : Nat) : (s.drawn x y n).spriteBit ((s.drawn x y n).getV x).toNat
      ((s.drawn x y n).getV y).toNat n.toNat X Y
      = s.spriteBit (s.getV x).toNat (s.getV y).toNat n.toNat X Y := by
    rw [State.getV_drawn_of_ne hx, State.getV_drawn_of_ne hy, State.spriteBit_drawn hs ha]
  refine ⟨_, exec_draw_of_accessible (ha.congr rfl rfl), State.memoryKept_of_lit_eq rfl ?outside ?lit, ?flag⟩
  case outside =>
    intro a hout
    rw [State.memoryKeptOutside_drawn ht a hout, State.memoryKeptOutside_drawn hs a hout]
  case lit =>
    intro X Y hX hY
    rw [State.lit_drawn ht hX hY, hsprite, State.lit_drawn hs hX hY, Bool.xor_assoc, Bool.xor_self,
      Bool.xor_false]
  case flag =>
    rw [State.drawn_collides_iff ht]
    refine exists_congr fun X => exists_congr fun Y => and_congr_right fun hX => and_congr_right fun hY => ?_
    rw [hsprite, State.lit_drawn hs hX hY]
    cases s.spriteBit (s.getV x).toNat (s.getV y).toNat n.toNat X Y <;> simp

end Sys2Proof.Machine
end

section
/-! Faults and the timer countdown (spec/60_exceptions.md): the causes for which an instruction enters a fault,
each from the state it ran in, and what the reconciliation of phase 1 leaves (R800 to R847). -/

namespace Sys2Proof.Machine

variable {i : Instr} {s t : State} {r : FaultRecord}

/-! ### Every fault of an instruction has its listed cause (R800, R807) -/

/-- The faults phase 3 can raise, each with its instruction and its cause (R802 to R806). -/
inductive ListedFault (s : State) : Instr → FaultKind → Prop
  | overflow (nnn : Addr) (hfull : s.sp = s.cfg.stackCapacity) : ListedFault s (.call nnn) .stackOverflow
  | underflow (hempty : s.sp = 0) : ListedFault s .ret .stackUnderflow
  | digitRange (x : Reg) (hd : 0xF < (s.getV x).toNat) :
      ListedFault s (.sprite x) (.spriteDigitRange (s.getV x))
  | access {i : Instr} {f : FaultKind} (hf : s.FirstFault (transferBytes i) f) : ListedFault s i f

/-- An instruction leaves the halt record alone, or raises a listed fault in the state it ran in. -/
theorem exec_halt_kept_or_listedFault (h : exec i s = .next t) :
    t.halt = s.halt ∨ ∃ k, ListedFault s i k ∧ t = s.setHalt (some ⟨k, s.pc⟩) := by
  cases i with
  | call nnn =>
    obtain ⟨hfull, rfl⟩ | ⟨-, rfl⟩ := execCall_next h
    · exact .inr ⟨_, .overflow nnn hfull, rfl⟩
    · exact .inl rfl
  | ret =>
    obtain ⟨hempty, rfl⟩ | ⟨-, rfl⟩ := execRet_next h
    · exact .inr ⟨_, .underflow hempty, rfl⟩
    · exact .inl rfl
  | sprite x =>
    obtain ⟨hd, rfl⟩ | ⟨-, rfl⟩ := execSprite_next h
    · exact .inr ⟨_, .digitRange x hd, rfl⟩
    · exact .inl rfl
  | draw x y n =>
    obtain ⟨-, rfl⟩ | ⟨f, hf, rfl⟩ := execDraw_next h
    · exact .inl rfl
    · exact .inr ⟨f, .access hf, rfl⟩
  | bcd x =>
    obtain ⟨-, rfl⟩ | ⟨f, hf, rfl⟩ := execBcd_next h
    · exact .inl rfl
    · exact .inr ⟨f, .access hf, rfl⟩
  | rdump x =>
    obtain ⟨-, rfl⟩ | ⟨f, hf, rfl⟩ := execRdump_next h
    · exact .inl rfl
    · exact .inr ⟨f, .access hf, rfl⟩
  | rload x =>
    obtain ⟨-, rfl⟩ | ⟨f, hf, rfl⟩ := execRload_next h
    · exact .inl (State.loadV_halt ..)
    · exact .inr ⟨f, .access hf, rfl⟩
  | skipkeq | skipkneq => cases h; exact .inl s.takeKey_halt
  | rand => cases h; exact .inl s.takeRand_halt
  | gkey => cases h; exact .inl s.takeAwaitedKey_halt
  | cls => cases h; exact .inl (by rw [State.advance_eq, State.setPc_halt, State.setMem_halt])
  | _ => cases h; exact .inl rfl

/-- An instruction that halts a running core raises a listed fault, and its record is all that changes. -/
theorem exec_listedFault (hrun : s.halt = none) (h : exec i s = .next t) (hr : t.halt = some r) :
    ListedFault s i r.kind ∧ r.pc = s.pc ∧ t = s.setHalt (some r) := by
  obtain hkept | ⟨k, hk, rfl⟩ := exec_halt_kept_or_listedFault h
  · exact nomatch hr.symm.trans (hkept.trans hrun)
  · cases hr
    exact ⟨hk, rfl, rfl⟩

/-- Settles O18: the listed cause of the fault, in the words of the claim. -/
theorem faultsOnlyAsListed : Obligations.FaultsOnlyAsListed := by
  intro i s t ⟨kind, pc⟩ hrun h hr
  obtain ⟨hlisted, -, -⟩ := exec_listedFault hrun h hr
  cases hlisted with
  | overflow nnn hfull => exact .inl ⟨⟨nnn, rfl⟩, hfull, rfl⟩
  | underflow hempty => exact .inr (.inl ⟨rfl, hempty, rfl⟩)
  | digitRange x hd => exact .inr (.inr (.inl ⟨x, rfl, hd, rfl⟩))
  | access hf =>
    obtain ⟨k, hk, -, hcheck⟩ := hf
    exact .inr (.inr (.inr ⟨k, hk, hcheck⟩))

/-- Settles O15: phase 2 and phase 3 both enter the fault from the state phase 1 left, which kept pc. -/
theorem faultsArePrecise : Obligations.FaultsArePrecise := by
  intro s t r hrun h hr
  obtain ⟨-, ⟨k, -, rfl⟩ | ⟨i, -, hi⟩⟩ := step_next h
  · cases hr
    exact ⟨rfl, rfl, s.beginStep_pc⟩
  · obtain ⟨-, hpc, rfl⟩ := exec_listedFault (s.beginStep_halt.trans hrun) hi hr
    exact ⟨rfl, hpc.trans s.beginStep_pc, s.beginStep_pc⟩

/-- Settles O13: only a running core has a next state, and the table of R150 resets the halt record. -/
theorem haltedCoreTakesNoStep : Obligations.HaltedCoreTakesNoStep := by
  intro s r hhalt
  refine ⟨by simp only [step, hhalt], rfl, fun t h => ?_⟩
  obtain ⟨hrun, -⟩ := step_next h
  exact nomatch hhalt.symm.trans hrun

/-! ### The countdown (R841 to R845) -/

/-- A countdown as R843 writes it, by the ticks owed but never below 0. -/
theorem countDown_toNat_min (b : Byte) (owed : Nat) :
    (countDown b owed).toNat = b.toNat - min b.toNat owed := by
  rw [countDown_toNat]; omega

/-- Settles O19: `e` is `expectedTicks`, and each timer is counted down by what of it is not yet applied. -/
theorem reconcileAppliesTheTicksOwed : Obligations.ReconcileAppliesTheTicksOwed := by
  intro s now e he
  obtain rfl : e = expectedTicks s.tRef now := he
  refine ⟨?dt, ?st, s.reconcile_ticks now, rfl, rfl, fun _ _ => rfl, rfl, fun _ => rfl, ⟨rfl, rfl⟩, ⟨rfl, rfl⟩,
    rfl⟩
  case dt => rw [State.reconcile_dt, countDown_toNat_min]
  case st => rw [State.reconcile_st, countDown_toNat_min]

/-- Settles O20, by induction on the readings: the first one is no later than the last, and all those after it
are made superfluous by the last. -/
theorem countdownIndependentOfStepRate : Obligations.CountdownIndependentOfStepRate := by
  intro s readings last hrising
  induction readings generalizing s with
  | nil => rfl
  | cons first rest ih =>
    obtain ⟨hfirst, hrest⟩ := List.pairwise_cons.mp hrising
    have hle : first ≤ last := hfirst last (List.mem_append_right rest (List.mem_singleton_self last))
    calc (rest.foldl State.reconcile (s.reconcile first)).reconcile last
        = (s.reconcile first).reconcile last := ih (s.reconcile first) hrest
      _ = s.reconcile last := s.reconcile_reconcile hle

/-! ### What no step changes (R11, R840, R846) -/

theorem exec_cfg (h : exec i s = .next t) : t.cfg = s.cfg := by
  cases exec_effect h with
  | rload => exact State.loadV_cfg ..
  | _ => rfl

/-- Phase 1 applies ticks and never takes one back (R844, R846). -/
theorem State.ticks_le_beginStep (s : State) : s.ticks ≤ s.beginStep.ticks :=
  s.takeNow_ticks ▸ Nat.le_max_left ..

/-- Settles O54: only phase 1 writes the tick count, and neither phase 1 nor an instruction the rest. -/
theorem parametersAndReferenceStayFixed : Obligations.ParametersAndReferenceStayFixed := by
  intro s t h
  obtain ⟨-, ⟨k, -, rfl⟩ | ⟨i, -, hi⟩⟩ := step_next h
  · exact ⟨s.beginStep_cfg, s.beginStep_tRef, s.ticks_le_beginStep⟩
  · obtain ⟨-, -, htRef, hticks⟩ := timersChangeOnlyByTheirWriters i s.beginStep t hi
    exact ⟨(exec_cfg hi).trans s.beginStep_cfg, htRef.trans s.beginStep_tRef,
      hticks ▸ s.ticks_le_beginStep⟩

end Sys2Proof.Machine
end

section
/-! Reset, load and terminal states (spec/70_reset_and_hazards.md): a reset depends on the parameters and the
clock alone, a load is one store of the bytes without a trailing odd one, and a step at a jump to itself is
phase 1 and nothing more. -/

namespace Sys2Proof.Machine

variable {s : State}

/-! ### Reset (R900, R901) -/

/-- A reset state with its host replaced depends on the parameters and the next reading of the clock alone. -/
theorem State.hostReset_setHost (s : State) (inp : HostInputs) :
    s.hostReset.setHost inp = (State.resetAt s.cfg s.nowAnswer).setHost inp := rfl

/-- Settles O6: each of the two is the table of R150 at the same parameters and reading. -/
theorem resetIsDeterministic : Obligations.ResetIsDeterministic := by
  intro s s' hcfg hnow
  refine ⟨rfl, rfl, ?_⟩
  calc s'.hostReset.setHost s.hostReset.host
      = (State.resetAt s'.cfg s'.nowAnswer).setHost s.hostReset.host := s'.hostReset_setHost _
    _ = (State.resetAt s.cfg s.nowAnswer).setHost s.hostReset.host := by rw [hcfg, hnow]

/-! ### Load (R910, R911) -/

/-- The bytes `load` copies: all but a trailing odd one (R910). -/
def loadedBytes (bytes : List Byte) : List Byte := bytes.take (loadLength bytes)

theorem loadedBytes_length (bytes : List Byte) : (loadedBytes bytes).length = loadLength bytes :=
  List.length_take_of_le (Nat.sub_le ..)

theorem loadedBytes_getD (bytes : List Byte) {k : Nat} (hk : k < loadLength bytes) :
    (loadedBytes bytes).getD k 0 = bytes.getD k 0 := by
  rw [loadedBytes, List.getD_eq_getElem?_getD, List.getElem?_take_of_lt hk, ← List.getD_eq_getElem?_getD]

theorem State.load_of_exceeds {bytes : List Byte} (h : s.cfg.reservedBase < loadAddress + loadLength bytes) :
    s.load bytes = .error .tooLong := if_pos h

theorem State.load_of_fits {bytes : List Byte} (h : loadAddress + loadLength bytes ≤ s.cfg.reservedBase) :
    s.load bytes = .ok (s.setMem (Memory.store s.cfg s.mem loadAddress (loadedBytes bytes))) := by
  rw [State.load, if_neg (Nat.not_lt.mpr h), State.storeBytes_eq, loadedBytes]

/-- A program that fits below the reserved region ends inside memory (R11). -/
theorem State.WellFormed.loaded_end_le (hs : s.WellFormed) {bytes : List Byte}
    (h : loadAddress + loadLength bytes ≤ s.cfg.reservedBase) :
    loadAddress + (loadedBytes bytes).length ≤ memSize := by
  obtain ⟨⟨-, -, -, -, hframe, hend⟩, -⟩ := hs
  rw [loadedBytes_length]
  unfold memSize
  omega

/-- A stored byte read back, by its place among those stored. -/
theorem Memory.read_store_add {c : Config} {m : Memory} (hm : Memory.wf c m) {a k : Nat} {bs : List Byte}
    (hend : a + bs.length ≤ memSize) (hk : k < bs.length) :
    Memory.read c (Memory.store c m a bs) (a + k) = bs.getD k 0 := by
  rw [Memory.read_store hm hend, if_pos (by omega), Nat.add_sub_cancel_left]

/-- Settles O9: a program that fits is one store of its copied bytes, all inside memory. -/
theorem loadCopiesOrRefuses : Obligations.LoadCopiesOrRefuses := by
  intro s bytes hs
  refine ⟨State.load_of_exceeds, fun hfits => ?_⟩
  have ⟨_, hmem, _⟩ := hs
  have hend := hs.loaded_end_le hfits
  have hlen := loadedBytes_length bytes
  refine ⟨_, State.load_of_fits hfits, fun k hk => ?stored, ?outside, (State.regsKeptBut_refl [] s).setMem _,
    rfl, rfl, (State.RestKept.refl s).setMem _, rfl, hs.setMem (Memory.wf_store hmem hend)⟩
  case stored =>
    exact (Memory.read_store_add hmem hend (hlen.symm ▸ hk)).trans (loadedBytes_getD bytes hk)
  case outside =>
    have hkept := s.memoryKeptOutside_store loadAddress (loadedBytes bytes)
    rwa [hlen] at hkept

/-! ### Terminal states (R950) -/

/-- At a jump to itself the step is phase 1 alone: the jump writes pc with what it holds. -/
theorem State.Terminal.step_eq (h : s.Terminal) : step s = .next s.beginStep := by
  obtain ⟨hrun, nnn, hi, hpc⟩ := h
  calc step s
      = exec (.jmp nnn) s.beginStep := step_of_fetchInstr_ok hrun hi
    _ = .next (s.beginStep.setPc (addrWord nnn)) := rfl
    _ = .next (s.beginStep.setPc s.beginStep.pc) := by rw [hpc, s.beginStep_pc]
    _ = .next s.beginStep := rfl

/-- Phase 1 leaves pc and the word there alone. -/
theorem State.Terminal.beginStep (h : s.Terminal) : s.beginStep.Terminal := by
  obtain ⟨hrun, nnn, hi, hpc⟩ := h
  exact ⟨s.beginStep_halt.trans hrun, nnn, s.beginStep_fetchInstr.trans hi, hpc.trans s.beginStep_pc.symm⟩

/-- Settles O55: the step's next state is the one phase 1 leaves. -/
theorem terminalStatesStayTerminal : Obligations.TerminalStatesStayTerminal := by
  intro s h
  obtain ⟨hrun, -⟩ := h.beginStep
  exact ⟨s.beginStep, h.step_eq, h.beginStep, s.beginStep_pc, fun r _ => s.getV_beginStep r, s.beginStep_i,
    s.byte_beginStep, ⟨s.beginStep_sp, s.beginStep_stack⟩, s.beginStep_tRef, hrun, s.beginStep_cfg⟩

end Sys2Proof.Machine
end
